-- ==== Sys2Proof/Word.lean ====
section
/-! DEFINITION. The two value types of the block: the ROM cell and the control word. -/

namespace Sys2Proof

/-- A ROM cell: 8 bits (R33, R47). -/
abbrev Byte := BitVec 8

/-- A control word, an address or a field value: an unsigned natural number (R8). Its width is a
parameter of the build (`Wc`, `W`, `NF`, ... of R6), so the width is stated by the checks and by the
invariants, not by the type (log entry 2). -/
abbrev CtrlWord := Nat

end Sys2Proof
end

