-- ==== Sys2Proof/Config.lean ====
section
/-! DEFINITION. The configuration of the block: the Profile of R19 (everything the source leaves to the
build) as plain data, the names of the four profiles the spec gives, and the closed type of the
configuration errors (R138 to R146). -/

namespace Sys2Proof

/-- A word of a profile as its author gives it: a number, or symbolically as the names joined by `|`
(R62, R66; the reason `unknown_signal` of R142 exists for words given symbolically). -/
inductive WordSpec where
  | value (w : CtrlWord)
  | names (ns : List String)
  deriving DecidableEq, Repr

/-- A defined opcode slot: `(mnemonic, ext, body)` of the field `ops` (R19, R70). -/
structure OpSlot where
  mnemonic : String
  ext : Bool
  body : List WordSpec
  deriving DecidableEq, Repr

/-- A flag edit `(mask, value, opcode, step, word)` (R19, R89). -/
structure FlagEdit where
  mask : Nat
  value : Nat
  opcode : Nat
  step : Nat
  word : WordSpec
  deriving DecidableEq, Repr

/-- The address partition: element `j` of a list is the address bit that supplies bit `j` of that
field (R19, R48, R97). -/
structure Partition where
  flags : List Nat
  opcode : List Nat
  step : List Nat
  slice : List Nat
  deriving DecidableEq, Repr

/-- What a build asks of the split: none, the midpoint, or a point named by its number. R19's Boolean
is `no` against the rest; the third form is there so that R142's `split_point` can refuse it
(R118, log entry 5). -/
inductive SplitRequest where
  | no
  | midpoint
  | point (n : Nat)
  deriving DecidableEq, Repr

/-- The Profile: every build-time constant (R6, R18, R19). `ops` is the partial map from opcodes to
slots as an association list, first entry first (log entry 15). `Wc` and `nopcodes_decl` are positive
integers (R19), so their fields cannot be 0. `W` and `nsteps_decl` are natural numbers, since R142 has rows
for `W = 0` and for `nsteps_decl < 2`; no profile with one of these is valid (log entry 17). -/
structure Profile where
  W : Nat
  wordWidth : PNat
  name : String
  signals : List (String × Nat)
  flagNames : List String
  fetch0 : WordSpec
  fetch1 : WordSpec
  opcodeCount : PNat
  nstepsDecl : Nat
  ops : List (Nat × OpSlot)
  extSlots : List Nat
  xc : Option WordSpec
  edits : List FlagEdit
  partition : Partition
  split : SplitRequest
  deriving DecidableEq, Repr

/-- `Wc`, the control-word width (R6, R19). -/
def Profile.Wc (P : Profile) : Nat := P.wordWidth

/-- `nopcodes_decl`, the declared number of opcode slots (R6, R19). -/
def Profile.nopcodesDecl (P : Profile) : Nat := P.opcodeCount

/-- The four profiles the spec names (46_profiles.md). Any other `Profile` value is an open profile
(R5 (e), U21). -/
inductive NamedProfile where
  | toy
  | ref
  | ref17
  | mini
  deriving DecidableEq, Repr

/-- The reasons of SignalCollisionError (R139): raised by CatalogCheck. -/
inductive CatalogReason where
  | outOfRange (name : String) (bit : Nat)
  | collision (name1 name2 : String) (bit : Nat)
  deriving DecidableEq, Repr

/-- The reasons of AddressPartitionError (R140): raised by PartitionCheck. -/
inductive PartitionReason where
  | bitOutOfRange
  | bitShared
  | bitDropped
  | opcodeTooNarrow
  | stepTooNarrow
  | sliceTooNarrow
  | flagsWidth
  deriving DecidableEq, Repr

/-- The reasons of ProfileRefused (R142), in the order of its table: raised by ShapeCheck. -/
inductive ShapeReason where
  | duplicateName
  | unknownSignal
  | wordTooWide
  | opcodeOutOfRange
  | bodyTooLong
  | editInFetch
  | editStepOutOfRange
  | editMask
  | missingXc
  | stepsDecl
  | splitPoint
  | flagNames
  deriving DecidableEq, Repr

/-- The closed type of the errors of a build, without numbers (R138, R145). -/
inductive BuildError where
  | signalCollisionError (r : CatalogReason)
  | addressPartitionError (r : PartitionReason)
  | profileRefused (r : ShapeReason)
  deriving DecidableEq, Repr

end Sys2Proof
end

