-- ==== Sys2Proof/Machine/Catalog.lean ====
section
/-! DEFINITION. The Signal Catalog and the construction of control words (40_signal_catalog.md). -/

namespace Sys2Proof

/-- `sig(n)`: the word that asserts `n` alone; a name not in the catalog has none (R65). -/
def Profile.sig? (P : Profile) (n : String) : Option CtrlWord :=
  (P.signals.find? fun e => e.1 == n).map fun e => 1 <<< e.2

/-- `word(n1 | ... | nk)`: the bitwise OR of the `sig` values (R66); a word given as a number is that
number. A name without a `sig` adds nothing; a profile that uses one is refused before any word is
used (R65, R142). -/
def Profile.word (P : Profile) : WordSpec → CtrlWord
  | .value w => w
  | .names ns => ns.foldr (fun n w => (P.sig? n).getD 0 ||| w) 0

/-- `names(w)`: the catalog's signals whose bit is set in `w` (R69). -/
def Profile.names (P : Profile) (w : CtrlWord) : List String :=
  (P.signals.filter fun e => w.testBit e.2).map fun e => e.1

namespace Machine

/-- The first loop of CatalogCheck: the first entry, in list order, whose bit is not below `Wc` (R64). -/
def firstOutOfRange (Wc : Nat) (signals : List (String × Nat)) : Option CatalogReason :=
  (signals.find? fun e => Wc ≤ e.2).map fun e => .outOfRange e.1 e.2

/-- The second loop of CatalogCheck: the first pair, in list order, of distinct entries with one bit
index (R64). Two entries that are equal as pairs are no two signals; ShapeCheck refuses them as a
duplicate name (R64 (f), log entry 6). -/
def firstCollision : List (String × Nat) → Option CatalogReason
  | [] => none
  | e :: rest =>
    match rest.find? fun e' => e'.2 == e.2 && e'.1 != e.1 with
    | some e' => some (.collision e.1 e'.1 e.2)
    | none => firstCollision rest

/-- `CatalogCheck(P)`: all range checks, then the pairs (R64, R139); `none` is "pass". -/
def catalogCheck (P : Profile) : Option CatalogReason :=
  (firstOutOfRange P.Wc P.signals).or (firstCollision P.signals)

end Machine
end Sys2Proof
end

