-- ==== Sys2Proof/Machine/Operands.lean ====
section
/-! DEFINITION. Address decomposition (43_address_decomposition.md): the fields of a ROM address, their
assembly from address bits and the way back, and the check of the partition. -/

namespace Sys2Proof

/-- Width of the flags field (R6). -/
def Profile.NF (P : Profile) : Nat := P.partition.flags.length

/-- Width of the opcode field (R6). -/
def Profile.NO (P : Profile) : Nat := P.partition.opcode.length

/-- Width of the step field (R6). -/
def Profile.NS (P : Profile) : Nat := P.partition.step.length

/-- Width of the byte-slice field (R6). -/
def Profile.NB (P : Profile) : Nat := P.partition.slice.length

/-- `ceil(Wc / 8)`: the bytes of one control word (R6). -/
def nslices (Wc : Nat) : Nat := (Wc + 7) / 8

namespace Machine

/-- `v[i]` as a number (R9). -/
def bitAt (v i : Nat) : Nat := (v.testBit i).toNat

/-- `field(A, bits)` = the sum over `j` of `A[bits[j]] << j` (R97), written from the low end: the first
listed position is bit 0 and the rest of the list is the field above it. -/
def field (A : Nat) : List Nat → Nat
  | [] => 0
  | b :: bs => bitAt A b + 2 * field A bs

/-- The sum over `j` of `v[j] << bits[j]`: one of the four sums of Compose (R100). -/
def scatter (v : Nat) : List Nat → Nat
  | [] => 0
  | b :: bs => (bitAt v 0 <<< b) + scatter (v / 2) bs

/-- The tuple `(flags, opcode, step, slice)` of one microinstruction byte (R10, R98). -/
structure Fields where
  flags : Nat
  opcode : Nat
  step : Nat
  slice : Nat
  deriving DecidableEq, Repr

/-- `Decompose(P, A)` (R98). -/
def decompose (p : Partition) (A : Nat) : Fields :=
  { flags := field A p.flags, opcode := field A p.opcode,
    step := field A p.step, slice := field A p.slice }

/-- `Compose(P, f, o, s, k)` (R100). -/
def compose (p : Partition) (t : Fields) : Nat :=
  scatter t.flags p.flags + scatter t.opcode p.opcode + scatter t.step p.step +
    scatter t.slice p.slice

/-- The four lists of the partition one after the other: `all` of PartitionCheck (R99). -/
def positions (p : Partition) : List Nat := p.flags ++ p.opcode ++ p.step ++ p.slice

/-- `PartitionCheck(P)`, in the order of its pseudocode (R99, R140); `none` is "pass". -/
def partitionCheck (P : Profile) : Option PartitionReason :=
  if (positions P.partition).any (fun b => P.W ≤ b) then some .bitOutOfRange
  else if ¬ (positions P.partition).Nodup then some .bitShared
  else if (List.range P.W).any (fun b => b ∉ positions P.partition) then some .bitDropped
  else if 2 ^ P.NO < P.nopcodesDecl then some .opcodeTooNarrow
  else if 2 ^ P.NS < P.nstepsDecl then some .stepTooNarrow
  else if 2 ^ P.NB < nslices P.Wc then some .sliceTooNarrow
  else if P.NF ≠ P.flagNames.length then some .flagsWidth
  else none

end Machine
end Sys2Proof
end

