-- ==== Sys2Proof/Machine/Microprograms.lean ====
section
/-! DEFINITION. The Opcode Microprogram Table (41_microprograms.md): the fetch words, the body of every
opcode class the spec gives, `Micro` and the base table. A body is written with the line roles of R73,
so that one body serves every profile that has those lines. -/

namespace Sys2Proof.Machine

/-- The fetch word of step 0 with the line roles of R73: `PCO|MAI` (R71). -/
def fetchStep0 : WordSpec := .names ["PCO", "MAI"]

/-- The fetch word of step 1 with the line roles of R73: `RMO|IRI|PCC` (R72). -/
def fetchStep1 : WordSpec := .names ["RMO", "IRI", "PCC"]

/-- NOP: `-`, the empty body (R75). -/
def bodyNop : List WordSpec := []

/-- LDA: `IRO|MAI ; RMO|ACI` (R77). -/
def bodyLda : List WordSpec := [.names ["IRO", "MAI"], .names ["RMO", "ACI"]]

/-- STA: `IRO|MAI ; ACO|RMI`, address first (R78). -/
def bodySta : List WordSpec := [.names ["IRO", "MAI"], .names ["ACO", "RMI"]]

/-- ADD: `IRO|MAI ; RMO|BRI ; SMO|ACI|FLI` (R79). -/
def bodyAdd : List WordSpec :=
  [.names ["IRO", "MAI"], .names ["RMO", "BRI"], .names ["SMO", "ACI", "FLI"]]

/-- SUB: as ADD, and `SBM` at step 4 (R80). -/
def bodySub : List WordSpec :=
  [.names ["IRO", "MAI"], .names ["RMO", "BRI"], .names ["SMO", "ACI", "FLI", "SBM"]]

/-- JMP: `IRO|PCI` (R76). -/
def bodyJmp : List WordSpec := [.names ["IRO", "PCI"]]

/-- OUT: `ACO|ORI` (R81). -/
def bodyOut : List WordSpec := [.names ["ACO", "ORI"]]

/-- HLT: the halt bit alone (R82; TOY's HALT, R123). -/
def bodyHlt : List WordSpec := [.names ["HLT"]]

/-- EXT: `EXS` alone (R83). -/
def bodyExt : List WordSpec := [.names ["EXS"]]

/-- A flag-conditional opcode's base row: fetch only (R85, R127, R132, R134 to R137). -/
def bodyConditional : List WordSpec := []

/-- The word a taken conditional jump has at step 2: `IRO|PCI` (R128, R132). -/
def wordJumpTaken : WordSpec := .names ["IRO", "PCI"]

/-- TOY's LOAD: `MAI|IRO ; RDI` (R123). -/
def bodyToyLoad : List WordSpec := [.names ["MAI", "IRO"], .names ["RDI"]]

/-- A microprogram: one control word per step (R12, R21). -/
abbrev Microprogram := List CtrlWord

/-- The base OpcodeTable: one microprogram per opcode (R21). -/
abbrev OpcodeTable := List Microprogram

/-- The slot at opcode `o`: the key's entry of the partial map `ops` (R19, R70). -/
def slotAt (P : Profile) (o : Nat) : Option OpSlot :=
  (P.ops.find? fun e => e.1 == o).map fun e => e.2

/-- The body of opcode `o` as control words, empty where `o` is no key of `ops` (R70, R57). -/
def bodyAt (P : Profile) (o : Nat) : List CtrlWord :=
  ((slotAt P o).map fun e => e.body.map P.word).getD []

/-- `Micro(P, o)` (R70). -/
def micro (P : Profile) (o : Nat) : Microprogram :=
  [P.word P.fetch0, P.word P.fetch1] ++ bodyAt P o ++
    List.replicate (2 ^ P.NS - 2 - (bodyAt P o).length) 0

/-- `BaseTable(P)` (R86). -/
def baseTable (P : Profile) : OpcodeTable := (List.range (2 ^ P.NO)).map (micro P)

end Sys2Proof.Machine
end

