-- ==== Sys2Proof/Machine/Profiles.lean ====
section
/-! DEFINITION. The four named profiles TOY, REF, REF17 and MINI (46_profiles.md, 30_encoding.md R49 to
R52). TOY is the source's own scenario; the other three are the spec's. -/

namespace Sys2Proof.Machine

/-- The address format of TOY (R49). -/
def toyPartition : Partition where
  flags := [3]
  opcode := [2]
  step := [0, 1]
  slice := []

/-- The address format of REF (R50). -/
def refPartition : Partition where
  flags := [9, 10, 11, 12]
  opcode := [4, 5, 6, 7, 8]
  step := [0, 1, 2, 3]
  slice := [13, 14]

/-- The address format of REF17: two more address bits are opcode bits 5 and 6 (R51). -/
def ref17Partition : Partition where
  flags := [9, 10, 11, 12]
  opcode := [4, 5, 6, 7, 8, 15, 16]
  step := [0, 1, 2, 3]
  slice := [13, 14]

/-- The address format of MINI (R52). -/
def miniPartition : Partition where
  flags := [0, 7, 5, 1]
  opcode := [6]
  step := [3, 4]
  slice := [2]

/-- TOY (R122 to R124, R49). -/
def toyProfile : Profile where
  W := 4
  wordWidth := 8
  name := "TOY"
  signals := [("MAI", 0), ("IRO", 1), ("RDI", 2), ("HLT", 3), ("PCO", 4), ("RMO", 5), ("IRI", 6),
    ("PCC", 7)]
  flagNames := ["F"]
  fetch0 := fetchStep0
  fetch1 := fetchStep1
  opcodeCount := 2
  nstepsDecl := 4
  ops := [(0, ⟨"LOAD", false, bodyToyLoad⟩), (1, ⟨"HALT", false, bodyHlt⟩)]
  extSlots := []
  xc := none
  edits := []
  partition := toyPartition
  split := .no

/-- The catalog of REF and REF17 (R125). -/
def refSignals : List (String × Nat) :=
  [("PCO", 0), ("MAI", 1), ("RMO", 2), ("IRI", 3), ("PCC", 4), ("IRO", 5), ("PCI", 6), ("ACI", 7),
   ("ACO", 8)] ++
  [("RMI", 9), ("BRI", 10), ("SMO", 11), ("FLI", 12), ("SBM", 13), ("ORI", 14), ("HLT", 15),
   ("EXS", 16), ("EXC", 17)]

/-- The defined slots of REF and REF17 (R127). -/
def refOps : List (Nat × OpSlot) :=
  [(0, ⟨"NOP", false, bodyNop⟩), (1, ⟨"LDA", false, bodyLda⟩), (2, ⟨"STA", false, bodySta⟩),
   (3, ⟨"ADD", false, bodyAdd⟩), (4, ⟨"SUB", false, bodySub⟩), (5, ⟨"JMP", false, bodyJmp⟩),
   (6, ⟨"JZ", false, bodyConditional⟩), (7, ⟨"JC", false, bodyConditional⟩)] ++
  [(8, ⟨"OUT", false, bodyOut⟩), (14, ⟨"EXT", false, bodyExt⟩), (15, ⟨"HLT", false, bodyHlt⟩),
   (17, ⟨"XJN", true, bodyConditional⟩), (18, ⟨"XJV", true, bodyConditional⟩)]

/-- The flag edits of REF and REF17, in list order (R128). -/
def refEdits : List FlagEdit :=
  [⟨0b0010, 0b0010, 6, 2, wordJumpTaken⟩, ⟨0b0001, 0b0001, 7, 2, wordJumpTaken⟩,
   ⟨0b0100, 0b0100, 17, 2, wordJumpTaken⟩, ⟨0b1000, 0b1000, 18, 2, wordJumpTaken⟩]

/-- REF (R125 to R129, R50). -/
def refProfile : Profile where
  W := 15
  wordWidth := 18
  name := "REF"
  signals := refSignals
  flagNames := ["C", "Z", "N", "V"]
  fetch0 := fetchStep0
  fetch1 := fetchStep1
  opcodeCount := 32
  nstepsDecl := 16
  ops := refOps
  extSlots := [16, 19, 20, 21, 22, 23, 24, 25, 26, 27, 28, 29, 30, 31]
  xc := some (.names ["EXC"])
  edits := refEdits
  partition := refPartition
  split := .no

/-- REF17: REF with two more address bits as opcode bits 5 and 6, and split (R130, R51). -/
def ref17Profile : Profile :=
  { refProfile with
    W := 17
    name := "REF17"
    partition := ref17Partition
    split := .midpoint }

/-- MINI (R131 to R133, R52). -/
def miniProfile : Profile where
  W := 8
  wordWidth := 12
  name := "MINI"
  signals := [("PCO", 0), ("MAI", 1), ("RMO", 2), ("IRI", 3), ("PCC", 4), ("IRO", 5), ("PCI", 6),
    ("ACI", 7), ("HLT", 8), ("EXS", 9), ("EXC", 10)]
  flagNames := ["C", "Z", "N", "V"]
  fetch0 := fetchStep0
  fetch1 := fetchStep1
  opcodeCount := 2
  nstepsDecl := 4
  ops := [(0, ⟨"LDA", false, bodyLda⟩), (1, ⟨"XJZ", true, bodyConditional⟩)]
  extSlots := []
  xc := some (.names ["EXC"])
  edits := [⟨0b0010, 0b0010, 1, 2, wordJumpTaken⟩]
  partition := miniPartition
  split := .midpoint

end Sys2Proof.Machine

namespace Sys2Proof

/-- The Profile value of a named profile. -/
def NamedProfile.profile : NamedProfile → Profile
  | .toy => Machine.toyProfile
  | .ref => Machine.refProfile
  | .ref17 => Machine.ref17Profile
  | .mini => Machine.miniProfile

/-- The named profile that `P` is, if it is one; every other value is an open profile (R5 (e), U21). -/
def Profile.named? (P : Profile) : Option NamedProfile :=
  [NamedProfile.toy, .ref, .ref17, .mini].find? fun n => P = n.profile

end Sys2Proof
end

