-- ==== Sys2Proof/Syntax.lean ====
section
/-! DEFINITION. The syntax: one constructor per row of spec/opcode_table.json. An instruction is an opcode
slot of a named profile (R56) together with the other fields of the ROM address that selects one byte of
its microprogram: the flag combination `f`, the step `st` and the byte-slice `k` (R48). TOY has no slice
field (R49); a row for a range of opcodes has their low five bits `low` as an operand. -/

namespace Sys2Proof

/-- An instruction: one row of the opcode table with its operand fields (R11 item 3, R56). -/
inductive Instr where
  -- profile TOY (R49, R123)
  /-- row LOAD, opcode 0: defined (source toy scenario) (R123) -/
  | toyLoad (f st : Nat)
  /-- row HALT, opcode 1: defined (source toy scenario) (R123) -/
  | toyHalt (f st : Nat)
  -- profile REF (R50, R56)
  /-- row NOP, opcode 0: defined (R75) -/
  | refNop (f st k : Nat)
  /-- row LDA, opcode 1: load accumulator (R77) -/
  | refLda (f st k : Nat)
  /-- row STA, opcode 2: store accumulator (R78) -/
  | refSta (f st k : Nat)
  /-- row ADD, opcode 3: add (R79) -/
  | refAdd (f st k : Nat)
  /-- row SUB, opcode 4: subtract (R80) -/
  | refSub (f st k : Nat)
  /-- row JMP, opcode 5: jump (R76) -/
  | refJmp (f st k : Nat)
  /-- row JZ, opcode 6: flag-conditional jump (R134) -/
  | refJz (f st k : Nat)
  /-- row JC, opcode 7: flag-conditional jump (R135) -/
  | refJc (f st k : Nat)
  /-- row OUT, opcode 8: output-register load (R81) -/
  | refOut (f st k : Nat)
  /-- row UNDEF_9, opcode 9: undefined (R74) -/
  | refUndef9 (f st k : Nat)
  /-- row UNDEF_10, opcode 10: undefined (R74) -/
  | refUndef10 (f st k : Nat)
  /-- row UNDEF_11, opcode 11: undefined (R74) -/
  | refUndef11 (f st k : Nat)
  /-- row UNDEF_12, opcode 12: undefined (R74) -/
  | refUndef12 (f st k : Nat)
  /-- row UNDEF_13, opcode 13: undefined (R74) -/
  | refUndef13 (f st k : Nat)
  /-- row EXT, opcode 14: extend marker (R83) -/
  | refExt (f st k : Nat)
  /-- row HLT, opcode 15: halt (R82) -/
  | refHlt (f st k : Nat)
  /-- row XUNDEF_16, opcode 16: undefined extended-page slot (in ext_slots) (R84) -/
  | refXUndef16 (f st k : Nat)
  /-- row XJN, opcode 17: extended-page flag-conditional jump (R136) -/
  | refXjn (f st k : Nat)
  /-- row XJV, opcode 18: extended-page flag-conditional jump (R137) -/
  | refXjv (f st k : Nat)
  /-- row XUNDEF_19, opcode 19: undefined extended-page slot (in ext_slots) (R84) -/
  | refXUndef19 (f st k : Nat)
  /-- row XUNDEF_20, opcode 20: undefined extended-page slot (in ext_slots) (R84) -/
  | refXUndef20 (f st k : Nat)
  /-- row XUNDEF_21, opcode 21: undefined extended-page slot (in ext_slots) (R84) -/
  | refXUndef21 (f st k : Nat)
  /-- row XUNDEF_22, opcode 22: undefined extended-page slot (in ext_slots) (R84) -/
  | refXUndef22 (f st k : Nat)
  /-- row XUNDEF_23, opcode 23: undefined extended-page slot (in ext_slots) (R84) -/
  | refXUndef23 (f st k : Nat)
  /-- row XUNDEF_24, opcode 24: undefined extended-page slot (in ext_slots) (R84) -/
  | refXUndef24 (f st k : Nat)
  /-- row XUNDEF_25, opcode 25: undefined extended-page slot (in ext_slots) (R84) -/
  | refXUndef25 (f st k : Nat)
  /-- row XUNDEF_26, opcode 26: undefined extended-page slot (in ext_slots) (R84) -/
  | refXUndef26 (f st k : Nat)
  /-- row XUNDEF_27, opcode 27: undefined extended-page slot (in ext_slots) (R84) -/
  | refXUndef27 (f st k : Nat)
  /-- row XUNDEF_28, opcode 28: undefined extended-page slot (in ext_slots) (R84) -/
  | refXUndef28 (f st k : Nat)
  /-- row XUNDEF_29, opcode 29: undefined extended-page slot (in ext_slots) (R84) -/
  | refXUndef29 (f st k : Nat)
  /-- row XUNDEF_30, opcode 30: undefined extended-page slot (in ext_slots) (R84) -/
  | refXUndef30 (f st k : Nat)
  /-- row XUNDEF_31, opcode 31: undefined extended-page slot (in ext_slots) (R84) -/
  | refXUndef31 (f st k : Nat)
  -- profile REF17 (R51, R56, R60)
  /-- row NOP, opcode 0: defined (R75) -/
  | ref17Nop (f st k : Nat)
  /-- row LDA, opcode 1: load accumulator (R77) -/
  | ref17Lda (f st k : Nat)
  /-- row STA, opcode 2: store accumulator (R78) -/
  | ref17Sta (f st k : Nat)
  /-- row ADD, opcode 3: add (R79) -/
  | ref17Add (f st k : Nat)
  /-- row SUB, opcode 4: subtract (R80) -/
  | ref17Sub (f st k : Nat)
  /-- row JMP, opcode 5: jump (R76) -/
  | ref17Jmp (f st k : Nat)
  /-- row JZ, opcode 6: flag-conditional jump (R134) -/
  | ref17Jz (f st k : Nat)
  /-- row JC, opcode 7: flag-conditional jump (R135) -/
  | ref17Jc (f st k : Nat)
  /-- row OUT, opcode 8: output-register load (R81) -/
  | ref17Out (f st k : Nat)
  /-- row UNDEF_9, opcode 9: undefined (R74) -/
  | ref17Undef9 (f st k : Nat)
  /-- row UNDEF_10, opcode 10: undefined (R74) -/
  | ref17Undef10 (f st k : Nat)
  /-- row UNDEF_11, opcode 11: undefined (R74) -/
  | ref17Undef11 (f st k : Nat)
  /-- row UNDEF_12, opcode 12: undefined (R74) -/
  | ref17Undef12 (f st k : Nat)
  /-- row UNDEF_13, opcode 13: undefined (R74) -/
  | ref17Undef13 (f st k : Nat)
  /-- row EXT, opcode 14: extend marker (R83) -/
  | ref17Ext (f st k : Nat)
  /-- row HLT, opcode 15: halt (R82) -/
  | ref17Hlt (f st k : Nat)
  /-- row XUNDEF_16, opcode 16: undefined extended-page slot (in ext_slots) (R84) -/
  | ref17XUndef16 (f st k : Nat)
  /-- row XJN, opcode 17: extended-page flag-conditional jump (R136) -/
  | ref17Xjn (f st k : Nat)
  /-- row XJV, opcode 18: extended-page flag-conditional jump (R137) -/
  | ref17Xjv (f st k : Nat)
  /-- row XUNDEF_19, opcode 19: undefined extended-page slot (in ext_slots) (R84) -/
  | ref17XUndef19 (f st k : Nat)
  /-- row XUNDEF_20, opcode 20: undefined extended-page slot (in ext_slots) (R84) -/
  | ref17XUndef20 (f st k : Nat)
  /-- row XUNDEF_21, opcode 21: undefined extended-page slot (in ext_slots) (R84) -/
  | ref17XUndef21 (f st k : Nat)
  /-- row XUNDEF_22, opcode 22: undefined extended-page slot (in ext_slots) (R84) -/
  | ref17XUndef22 (f st k : Nat)
  /-- row XUNDEF_23, opcode 23: undefined extended-page slot (in ext_slots) (R84) -/
  | ref17XUndef23 (f st k : Nat)
  /-- row XUNDEF_24, opcode 24: undefined extended-page slot (in ext_slots) (R84) -/
  | ref17XUndef24 (f st k : Nat)
  /-- row XUNDEF_25, opcode 25: undefined extended-page slot (in ext_slots) (R84) -/
  | ref17XUndef25 (f st k : Nat)
  /-- row XUNDEF_26, opcode 26: undefined extended-page slot (in ext_slots) (R84) -/
  | ref17XUndef26 (f st k : Nat)
  /-- row XUNDEF_27, opcode 27: undefined extended-page slot (in ext_slots) (R84) -/
  | ref17XUndef27 (f st k : Nat)
  /-- row XUNDEF_28, opcode 28: undefined extended-page slot (in ext_slots) (R84) -/
  | ref17XUndef28 (f st k : Nat)
  /-- row XUNDEF_29, opcode 29: undefined extended-page slot (in ext_slots) (R84) -/
  | ref17XUndef29 (f st k : Nat)
  /-- row XUNDEF_30, opcode 30: undefined extended-page slot (in ext_slots) (R84) -/
  | ref17XUndef30 (f st k : Nat)
  /-- row XUNDEF_31, opcode 31: undefined extended-page slot (in ext_slots) (R84) -/
  | ref17XUndef31 (f st k : Nat)
  /-- row UNDEF_32_63, opcode 32 to 63: undefined (R74) -/
  | ref17Undef32To63 (low f st k : Nat)
  /-- row UNDEF_64_95, opcode 64 to 95: undefined (R74) -/
  | ref17Undef64To95 (low f st k : Nat)
  /-- row UNDEF_96_127, opcode 96 to 127: undefined (R74) -/
  | ref17Undef96To127 (low f st k : Nat)
  -- profile MINI (R52, R132)
  /-- row LDA, opcode 0: load accumulator (R77) -/
  | miniLda (f st k : Nat)
  /-- row XJZ, opcode 1: extended-page flag-conditional jump (R132) -/
  | miniXjz (f st k : Nat)
  deriving DecidableEq, Repr

end Sys2Proof
end

