-- ==== Sys2Proof/WellFormed.lean ====
section
/-! DEFINITION. Well-formed instructions: every operand fits the width its address format gives it
(30_encoding.md R48 to R52). -/

namespace Sys2Proof

/-- TOY: one flag bit, two step bits, no slice field (R49). -/
def toyFieldsOk (f st : Nat) : Bool := f < 2 && st < 4

/-- REF and REF17: four flag bits, four step bits, two slice bits (R50, R51). -/
def refFieldsOk (f st k : Nat) : Bool := f < 16 && st < 16 && k < 4

/-- A row for a range of 32 opcodes of REF17: five low opcode bits beside the fields (R51, R60). -/
def rangeFieldsOk (low f st k : Nat) : Bool := low < 32 && refFieldsOk f st k

/-- MINI: four flag bits, two step bits, one slice bit (R52). -/
def miniFieldsOk (f st k : Nat) : Bool := f < 16 && st < 4 && k < 2

/-- Whether every operand of an instruction fits its field. -/
def Instr.wf : Instr → Bool
  | .toyLoad f st
  | .toyHalt f st => toyFieldsOk f st
  | .refNop f st k
  | .refLda f st k
  | .refSta f st k
  | .refAdd f st k
  | .refSub f st k
  | .refJmp f st k
  | .refJz f st k
  | .refJc f st k
  | .refOut f st k
  | .refUndef9 f st k
  | .refUndef10 f st k
  | .refUndef11 f st k
  | .refUndef12 f st k
  | .refUndef13 f st k
  | .refExt f st k
  | .refHlt f st k
  | .refXUndef16 f st k
  | .refXjn f st k
  | .refXjv f st k
  | .refXUndef19 f st k
  | .refXUndef20 f st k
  | .refXUndef21 f st k
  | .refXUndef22 f st k
  | .refXUndef23 f st k
  | .refXUndef24 f st k
  | .refXUndef25 f st k
  | .refXUndef26 f st k
  | .refXUndef27 f st k
  | .refXUndef28 f st k
  | .refXUndef29 f st k
  | .refXUndef30 f st k
  | .refXUndef31 f st k
  | .ref17Nop f st k
  | .ref17Lda f st k
  | .ref17Sta f st k
  | .ref17Add f st k
  | .ref17Sub f st k
  | .ref17Jmp f st k
  | .ref17Jz f st k
  | .ref17Jc f st k
  | .ref17Out f st k
  | .ref17Undef9 f st k
  | .ref17Undef10 f st k
  | .ref17Undef11 f st k
  | .ref17Undef12 f st k
  | .ref17Undef13 f st k
  | .ref17Ext f st k
  | .ref17Hlt f st k
  | .ref17XUndef16 f st k
  | .ref17Xjn f st k
  | .ref17Xjv f st k
  | .ref17XUndef19 f st k
  | .ref17XUndef20 f st k
  | .ref17XUndef21 f st k
  | .ref17XUndef22 f st k
  | .ref17XUndef23 f st k
  | .ref17XUndef24 f st k
  | .ref17XUndef25 f st k
  | .ref17XUndef26 f st k
  | .ref17XUndef27 f st k
  | .ref17XUndef28 f st k
  | .ref17XUndef29 f st k
  | .ref17XUndef30 f st k
  | .ref17XUndef31 f st k => refFieldsOk f st k
  | .ref17Undef32To63 low f st k
  | .ref17Undef64To95 low f st k
  | .ref17Undef96To127 low f st k => rangeFieldsOk low f st k
  | .miniLda f st k
  | .miniXjz f st k => miniFieldsOk f st k

end Sys2Proof
end

