-- ==== Sys2Proof/Decode.lean ====
section
/-! DEFINITION. The decoder, total on any word, and the encoder. The instruction word of the block is the
ROM address (R48): its fields come apart by Decompose (R98) with the partition of the named profile, the
opcode field is the position in the opcode table (R56), and the encoder is Compose (R100). -/

namespace Sys2Proof

/-- Why a word is no instruction of a profile. -/
inductive DecodeError where
  /-- the word has a bit at or above `W`: the port has no such address line (R31, D30) -/
  | addressOutOfRange
  /-- the opcode field is beyond the decoder's slot table; no address of a named profile is -/
  | noSuchSlot
  deriving DecidableEq, Repr

/-- A row of the opcode table with its operands: the profile, the opcode field and the other fields. -/
structure Slot where
  named : NamedProfile
  fields : Machine.Fields
  deriving DecidableEq, Repr

/-- The opcode table of TOY by opcode (R123). -/
def toySlots : List (Nat → Nat → Nat → Instr) :=
  [fun f st _ => .toyLoad f st, fun f st _ => .toyHalt f st]

/-- The opcode table of REF by opcode (R56). -/
def refSlots : List (Nat → Nat → Nat → Instr) :=
  [Instr.refNop, Instr.refLda, Instr.refSta, Instr.refAdd, Instr.refSub, Instr.refJmp, Instr.refJz, Instr.refJc, Instr.refOut,
   Instr.refUndef9, Instr.refUndef10, Instr.refUndef11, Instr.refUndef12, Instr.refUndef13, Instr.refExt, Instr.refHlt] ++
  [Instr.refXUndef16, Instr.refXjn, Instr.refXjv, Instr.refXUndef19, Instr.refXUndef20, Instr.refXUndef21, Instr.refXUndef22,
   Instr.refXUndef23, Instr.refXUndef24, Instr.refXUndef25, Instr.refXUndef26, Instr.refXUndef27, Instr.refXUndef28,
   Instr.refXUndef29, Instr.refXUndef30, Instr.refXUndef31]

/-- The opcode table of REF17 by opcode, opcodes 0 to 31 (R56). -/
def ref17Slots : List (Nat → Nat → Nat → Instr) :=
  [Instr.ref17Nop, Instr.ref17Lda, Instr.ref17Sta, Instr.ref17Add, Instr.ref17Sub, Instr.ref17Jmp, Instr.ref17Jz, Instr.ref17Jc,
   Instr.ref17Out, Instr.ref17Undef9, Instr.ref17Undef10, Instr.ref17Undef11, Instr.ref17Undef12, Instr.ref17Undef13,
   Instr.ref17Ext, Instr.ref17Hlt] ++
  [Instr.ref17XUndef16, Instr.ref17Xjn, Instr.ref17Xjv, Instr.ref17XUndef19, Instr.ref17XUndef20, Instr.ref17XUndef21,
   Instr.ref17XUndef22, Instr.ref17XUndef23, Instr.ref17XUndef24, Instr.ref17XUndef25, Instr.ref17XUndef26,
   Instr.ref17XUndef27, Instr.ref17XUndef28, Instr.ref17XUndef29, Instr.ref17XUndef30, Instr.ref17XUndef31]

/-- The opcode table of MINI by opcode (R132). -/
def miniSlots : List (Nat → Nat → Nat → Instr) :=
  [Instr.miniLda, Instr.miniXjz]

/-- The rows of REF17 for opcodes 32 to 127 by opcode bits 6 and 5 (R51, R60). -/
def ref17Ranges : List (Nat → Nat → Nat → Nat → Instr) :=
  [Instr.ref17Undef32To63, Instr.ref17Undef64To95, Instr.ref17Undef96To127]

/-- The row of opcode `o` in the table of a named profile. -/
def rowAt (n : NamedProfile) (o : Nat) : Option (Nat → Nat → Nat → Instr) :=
  match n with
  | .toy => toySlots[o]?
  | .ref => refSlots[o]?
  | .ref17 => if o < 32 then ref17Slots[o]? else (ref17Ranges[o / 32 - 1]?).map fun c => c (o % 32)
  | .mini => miniSlots[o]?

/-- The instruction a ROM address of a named profile selects. -/
def decode (n : NamedProfile) (A : Nat) : Except DecodeError Instr :=
  if A < 2 ^ n.profile.W then
    let t := Machine.decompose n.profile.partition A
    match rowAt n t.opcode with
    | some c => .ok (c t.flags t.step t.slice)
    | none => .error .noSuchSlot
  else .error .addressOutOfRange

/-- The row of the table an instruction is, with its operands. -/
def Instr.slot : Instr → Slot
  | .toyLoad f st => ⟨.toy, ⟨f, 0, st, 0⟩⟩
  | .toyHalt f st => ⟨.toy, ⟨f, 1, st, 0⟩⟩
  | .refNop f st k => ⟨.ref, ⟨f, 0, st, k⟩⟩
  | .refLda f st k => ⟨.ref, ⟨f, 1, st, k⟩⟩
  | .refSta f st k => ⟨.ref, ⟨f, 2, st, k⟩⟩
  | .refAdd f st k => ⟨.ref, ⟨f, 3, st, k⟩⟩
  | .refSub f st k => ⟨.ref, ⟨f, 4, st, k⟩⟩
  | .refJmp f st k => ⟨.ref, ⟨f, 5, st, k⟩⟩
  | .refJz f st k => ⟨.ref, ⟨f, 6, st, k⟩⟩
  | .refJc f st k => ⟨.ref, ⟨f, 7, st, k⟩⟩
  | .refOut f st k => ⟨.ref, ⟨f, 8, st, k⟩⟩
  | .refUndef9 f st k => ⟨.ref, ⟨f, 9, st, k⟩⟩
  | .refUndef10 f st k => ⟨.ref, ⟨f, 10, st, k⟩⟩
  | .refUndef11 f st k => ⟨.ref, ⟨f, 11, st, k⟩⟩
  | .refUndef12 f st k => ⟨.ref, ⟨f, 12, st, k⟩⟩
  | .refUndef13 f st k => ⟨.ref, ⟨f, 13, st, k⟩⟩
  | .refExt f st k => ⟨.ref, ⟨f, 14, st, k⟩⟩
  | .refHlt f st k => ⟨.ref, ⟨f, 15, st, k⟩⟩
  | .refXUndef16 f st k => ⟨.ref, ⟨f, 16, st, k⟩⟩
  | .refXjn f st k => ⟨.ref, ⟨f, 17, st, k⟩⟩
  | .refXjv f st k => ⟨.ref, ⟨f, 18, st, k⟩⟩
  | .refXUndef19 f st k => ⟨.ref, ⟨f, 19, st, k⟩⟩
  | .refXUndef20 f st k => ⟨.ref, ⟨f, 20, st, k⟩⟩
  | .refXUndef21 f st k => ⟨.ref, ⟨f, 21, st, k⟩⟩
  | .refXUndef22 f st k => ⟨.ref, ⟨f, 22, st, k⟩⟩
  | .refXUndef23 f st k => ⟨.ref, ⟨f, 23, st, k⟩⟩
  | .refXUndef24 f st k => ⟨.ref, ⟨f, 24, st, k⟩⟩
  | .refXUndef25 f st k => ⟨.ref, ⟨f, 25, st, k⟩⟩
  | .refXUndef26 f st k => ⟨.ref, ⟨f, 26, st, k⟩⟩
  | .refXUndef27 f st k => ⟨.ref, ⟨f, 27, st, k⟩⟩
  | .refXUndef28 f st k => ⟨.ref, ⟨f, 28, st, k⟩⟩
  | .refXUndef29 f st k => ⟨.ref, ⟨f, 29, st, k⟩⟩
  | .refXUndef30 f st k => ⟨.ref, ⟨f, 30, st, k⟩⟩
  | .refXUndef31 f st k => ⟨.ref, ⟨f, 31, st, k⟩⟩
  | .ref17Nop f st k => ⟨.ref17, ⟨f, 0, st, k⟩⟩
  | .ref17Lda f st k => ⟨.ref17, ⟨f, 1, st, k⟩⟩
  | .ref17Sta f st k => ⟨.ref17, ⟨f, 2, st, k⟩⟩
  | .ref17Add f st k => ⟨.ref17, ⟨f, 3, st, k⟩⟩
  | .ref17Sub f st k => ⟨.ref17, ⟨f, 4, st, k⟩⟩
  | .ref17Jmp f st k => ⟨.ref17, ⟨f, 5, st, k⟩⟩
  | .ref17Jz f st k => ⟨.ref17, ⟨f, 6, st, k⟩⟩
  | .ref17Jc f st k => ⟨.ref17, ⟨f, 7, st, k⟩⟩
  | .ref17Out f st k => ⟨.ref17, ⟨f, 8, st, k⟩⟩
  | .ref17Undef9 f st k => ⟨.ref17, ⟨f, 9, st, k⟩⟩
  | .ref17Undef10 f st k => ⟨.ref17, ⟨f, 10, st, k⟩⟩
  | .ref17Undef11 f st k => ⟨.ref17, ⟨f, 11, st, k⟩⟩
  | .ref17Undef12 f st k => ⟨.ref17, ⟨f, 12, st, k⟩⟩
  | .ref17Undef13 f st k => ⟨.ref17, ⟨f, 13, st, k⟩⟩
  | .ref17Ext f st k => ⟨.ref17, ⟨f, 14, st, k⟩⟩
  | .ref17Hlt f st k => ⟨.ref17, ⟨f, 15, st, k⟩⟩
  | .ref17XUndef16 f st k => ⟨.ref17, ⟨f, 16, st, k⟩⟩
  | .ref17Xjn f st k => ⟨.ref17, ⟨f, 17, st, k⟩⟩
  | .ref17Xjv f st k => ⟨.ref17, ⟨f, 18, st, k⟩⟩
  | .ref17XUndef19 f st k => ⟨.ref17, ⟨f, 19, st, k⟩⟩
  | .ref17XUndef20 f st k => ⟨.ref17, ⟨f, 20, st, k⟩⟩
  | .ref17XUndef21 f st k => ⟨.ref17, ⟨f, 21, st, k⟩⟩
  | .ref17XUndef22 f st k => ⟨.ref17, ⟨f, 22, st, k⟩⟩
  | .ref17XUndef23 f st k => ⟨.ref17, ⟨f, 23, st, k⟩⟩
  | .ref17XUndef24 f st k => ⟨.ref17, ⟨f, 24, st, k⟩⟩
  | .ref17XUndef25 f st k => ⟨.ref17, ⟨f, 25, st, k⟩⟩
  | .ref17XUndef26 f st k => ⟨.ref17, ⟨f, 26, st, k⟩⟩
  | .ref17XUndef27 f st k => ⟨.ref17, ⟨f, 27, st, k⟩⟩
  | .ref17XUndef28 f st k => ⟨.ref17, ⟨f, 28, st, k⟩⟩
  | .ref17XUndef29 f st k => ⟨.ref17, ⟨f, 29, st, k⟩⟩
  | .ref17XUndef30 f st k => ⟨.ref17, ⟨f, 30, st, k⟩⟩
  | .ref17XUndef31 f st k => ⟨.ref17, ⟨f, 31, st, k⟩⟩
  | .ref17Undef32To63 low f st k => ⟨.ref17, ⟨f, 32 + low, st, k⟩⟩
  | .ref17Undef64To95 low f st k => ⟨.ref17, ⟨f, 64 + low, st, k⟩⟩
  | .ref17Undef96To127 low f st k => ⟨.ref17, ⟨f, 96 + low, st, k⟩⟩
  | .miniLda f st k => ⟨.mini, ⟨f, 0, st, k⟩⟩
  | .miniXjz f st k => ⟨.mini, ⟨f, 1, st, k⟩⟩

/-- The ROM address of an instruction: its fields put together by the partition of its profile (R100). -/
def encode (i : Instr) : Nat := Machine.compose i.slot.named.profile.partition i.slot.fields

/-- The profile a word of the opcode table is an address of, read from the number of its bits (W is 4, 8,
15 and 17, R6). The widths of TOY and MINI are both one byte: a word below 16 is taken as TOY's, whose
whole address space that is, and any other as MINI's (log entry 4). -/
def tableProfile (nbits w : Nat) : NamedProfile :=
  if nbits ≤ 8 then (if w < 16 then .toy else .mini) else if nbits ≤ 16 then .ref else .ref17

/-- The instruction the decoder reads from a word of the opcode table. -/
def decodeTableWord (nbits w : Nat) : Option Instr := (decode (tableProfile nbits w) w).toOption

end Sys2Proof
end

