-- ==== Sys2Proof/Machine/Flags.lean ====
section
/-! DEFINITION. The flag-variant expander (42_flag_expander.md): everything the block computes from a
flag combination. The block itself holds and writes no flags (R17). -/

namespace Sys2Proof.Machine

/-- The ExpandedTable: one OpcodeTable per flag combination, `E[f][o][s]` (R22). -/
abbrev ExpandedTable := List OpcodeTable

/-- The control word `E[f][o][s]`. -/
def lookup (E : ExpandedTable) (f o s : Nat) : CtrlWord :=
  ((E.getD f []).getD o []).getD s 0

/-- `Replicate(P, B)`: an independent copy for every combination, `2^NF` of them (R87). -/
def replicateTable (P : Profile) (B : OpcodeTable) : ExpandedTable := List.replicate (2 ^ P.NF) B

/-- The combinations an edit matches: `(f & mask) = value` (R89). -/
def editHits (e : FlagEdit) (f : Nat) : Bool := (f &&& e.mask) == e.value

/-- One edit of ApplyEdits: replace the word at `(opcode, step)` in every combination it matches (R89). -/
def applyEdit (P : Profile) (E : ExpandedTable) (e : FlagEdit) : ExpandedTable :=
  E.mapIdx fun f T =>
    if editHits e f then T.modify e.opcode (fun m => m.set e.step (P.word e.word)) else T

/-- `ApplyEdits(P, E0)`: the edits in list order, a later one winning (R89). -/
def applyEdits (P : Profile) (E : ExpandedTable) : ExpandedTable := P.edits.foldl (applyEdit P) E

/-- `Terminal(m) = max({2} ∪ { s | 2 <= s and m[s] ≠ 0 })` (R91). -/
def terminal (m : Microprogram) : Nat :=
  ((List.range m.length).filter fun s => 2 ≤ s && m.getD s 0 != 0).foldl max 2

/-- `IsExt(P, o)` (R92). -/
def isExt (P : Profile) (o : Nat) : Bool :=
  ((slotAt P o).map fun e => e.ext).getD false || P.extSlots.contains o

/-- The clear-extend word `P.xc` (R19); a profile that needs one and has none is refused (R142). -/
def clearExtendWord (P : Profile) : CtrlWord := (P.xc.map P.word).getD 0

/-- One microprogram of ApplyClearExtend: the clear-extend word ORed into the terminal step (R92). -/
def clearExtendAt (P : Profile) (m : Microprogram) : Microprogram :=
  m.set (terminal m) (m.getD (terminal m) 0 ||| clearExtendWord P)

/-- `ApplyClearExtend(P, E1)` (R92). -/
def applyClearExtend (P : Profile) (E : ExpandedTable) : ExpandedTable :=
  E.map fun T => T.mapIdx fun o m => if isExt P o then clearExtendAt P m else m

/-- The whole expander on a base table: the right side of step 5 of Run (R93, R155). -/
def expandTable (P : Profile) (B : OpcodeTable) : ExpandedTable :=
  applyClearExtend P (applyEdits P (replicateTable P B))

/-- `Expand(P)` (R93). -/
def expand (P : Profile) : ExpandedTable := expandTable P (baseTable P)

end Sys2Proof.Machine
end

