-- ==== Sys2Proof/Machine/Serializer.lean ====
section
/-! DEFINITION. The byte serializer and the ROM image (44_byte_serializer.md, 45_rom_image_builder.md
R112 to R119). -/

namespace Sys2Proof.Machine

/-- `Slice(P, w, k)` (R107, R108). -/
def slice (Wc : Nat) (w : CtrlWord) (k : Nat) : Byte :=
  if nslices Wc ≤ k then 0 else BitVec.ofNat 8 ((w >>> (k * 8)) &&& 0xFF)

/-- `RomByte(P, E, A)` (R112). -/
def romByte (P : Profile) (E : ExpandedTable) (A : Nat) : Byte :=
  let t := decompose P.partition A
  slice P.Wc (lookup E t.flags t.opcode t.step) t.slice

/-- `image[A]` in closed form (R117). -/
def imageByte (P : Profile) (A : Nat) : Byte := romByte P (expand P) A

/-- The finished image, element `A` for address `A` (R113, R114, R117). The loop of R113 itself is the
machine's own steps (Machine/Builder.lean). -/
def build (P : Profile) : List Byte := (List.range (2 ^ P.W)).map (imageByte P)

/-- Whether the finished image is cut in two: R19's Boolean `split`. -/
def splits (P : Profile) : Bool := P.split != .no

/-- The midpoint `2^(W-1)` (R118). -/
def splitPoint (P : Profile) : Nat := 2 ^ (P.W - 1)

/-- `Split(P, image)`: the two halves, chip 0 first (R118). -/
def splitImage (P : Profile) (image : List Byte) : List Byte × List Byte :=
  (image.take (splitPoint P), image.drop (splitPoint P))

end Sys2Proof.Machine
end

