-- ==== Sys2Proof/Machine/Checks.lean ====
section
/-! DEFINITION. ShapeCheck (60_exceptions.md R142) and the order of the three checks (R146). -/

namespace Sys2Proof.Machine

/-- Every word a profile gives: the fetch words, the clear-extend word, the body words and the edit
words, the words `word_too_wide` and `unknown_signal` are about (R142). -/
def profileWords (P : Profile) : List WordSpec :=
  P.fetch0 :: P.fetch1 :: P.xc.toList ++ P.ops.flatMap (fun e => e.2.body) ++
    P.edits.map (fun e => e.word)

/-- Whether a word is written with a name that is not in the catalog (R142). -/
def hasUnknownName (P : Profile) : WordSpec → Bool
  | .value _ => false
  | .names ns => ns.any fun n => (P.sig? n).isNone

/-- Whether an edit's mask and value are no `NF`-bit mask and value (R89, R142): `value & ~mask ≠ 0`
says that `value` has a bit `mask` has not. -/
def badMask (P : Profile) (e : FlagEdit) : Bool :=
  2 ^ P.NF ≤ e.mask || (e.value &&& e.mask) != e.value

/-- Whether some slot is extended-page (R92, R142). -/
def hasExtended (P : Profile) : Bool := P.ops.any (fun e => e.2.ext) || !P.extSlots.isEmpty

/-- Whether the split that is asked for is none the block has (R118, R142). -/
def badSplit (P : Profile) : Bool :=
  match P.split with
  | .no => false
  | .midpoint => P.W == 0
  | .point n => P.W == 0 || n != splitPoint P

/-- The reasons of ProfileRefused in the order of R142's table. -/
def shapeReasons : List ShapeReason :=
  [.duplicateName, .unknownSignal, .wordTooWide, .opcodeOutOfRange, .bodyTooLong, .editInFetch] ++
  [.editStepOutOfRange, .editMask, .missingXc, .stepsDecl, .splitPoint, .flagNames]

/-- Whether the condition that R142's table gives a reason holds. "Some slot" of `body_too_long` is a slot
of `ops`: the empty body of an undefined slot (R70) is not counted, or `steps_decl` could never be the first
reason (log entry 21). -/
def shapeFails (P : Profile) : ShapeReason → Bool
  | .duplicateName => !decide (P.signals.map fun e => e.1).Nodup
  | .unknownSignal => (profileWords P).any (hasUnknownName P)
  | .wordTooWide => (profileWords P).any fun w => 2 ^ P.Wc ≤ P.word w
  | .opcodeOutOfRange => P.ops.any (fun e => P.nopcodesDecl ≤ e.1) ||
      P.extSlots.any (fun o => P.nopcodesDecl ≤ o) || P.edits.any (fun e => 2 ^ P.NO ≤ e.opcode)
  | .bodyTooLong => P.ops.any fun e => P.nstepsDecl < 2 + e.2.body.length
  | .editInFetch => P.edits.any fun e => e.step < 2
  | .editStepOutOfRange => P.edits.any fun e => 2 ^ P.NS ≤ e.step
  | .editMask => P.edits.any (badMask P)
  | .missingXc => hasExtended P && P.xc.isNone
  | .stepsDecl => P.nstepsDecl < 2
  | .splitPoint => badSplit P
  | .flagNames => !decide P.flagNames.Nodup

/-- `ShapeCheck(P)`: the first condition of the table that holds (R142); `none` is "pass". -/
def shapeCheck (P : Profile) : Option ShapeReason := shapeReasons.find? (shapeFails P)

/-- The error of a build of `P`: the first failure in the order CatalogCheck, PartitionCheck, ShapeCheck
(R146); `none` says that the profile is valid (R20). -/
def buildError (P : Profile) : Option BuildError :=
  ((catalogCheck P).map BuildError.signalCollisionError).or
    (((partitionCheck P).map BuildError.addressPartitionError).or
      ((shapeCheck P).map BuildError.profileRefused))

end Sys2Proof.Machine
end

