-- ==== Sys2Proof/Machine/State.lean ====
section
/-! DEFINITION. The state of the block, the reasons a step can stop, and the state after reset. The
block has no general registers, no program counter, no flags and no control registers (R13, R15, R17,
R18): what it has is the Profile of the build, the stage of the build, the tables, the address counter,
the partial image, the ROM, and the read port. -/

namespace Sys2Proof.Machine

/-- The contents of one ROM chip: its cells as pairs, addresses strictly rising, and no entry for a
cell that holds what an unlisted address reads as (`Memory.wf`, Machine/Ops.lean; log entry 3). -/
abbrev Memory := List Host.Cell

/-- The programmed ROM: one chip, or the two chips of a split build, chip 0 first (R118, R120). -/
inductive Rom where
  | one (chip : Memory)
  | two (chip0 chip1 : Memory)
  deriving DecidableEq, Repr

/-- Where the block stands in Run (R155) and after it (R157). -/
inductive Stage where
  /-- step 1 comes next: CatalogCheck -/
  | checkCatalog
  /-- step 2 comes next: PartitionCheck -/
  | checkPartition
  /-- step 3 comes next: ShapeCheck -/
  | checkShape
  /-- step 4 comes next: BaseTable -/
  | makeBase
  /-- step 5 comes next: the expander -/
  | makeExpanded
  /-- step 6, the address loop, and at its end step 7 -/
  | addressLoop
  /-- Run returned `ok(...)`: the ROM exists and the read port answers -/
  | reading
  /-- Run returned `error(...)`: no ROM exists (R141) -/
  | failed (e : BuildError)
  deriving DecidableEq, Repr

/-- Why a step stops. The spec has no run-time fault (R148): each of these says that there is nothing
to read. -/
inductive Fault where
  /-- Raised by `step` after a build that ended in this error: nothing runs any more, only a new build
  can (R141, R147). Safe: the spec gives no effect after an error. -/
  | buildError (e : BuildError)
  /-- Raised by `State.readAt` where no ROM exists: the read port exists only for a completed build
  (R44). Safe. -/
  | noRom
  /-- Raised by `State.readAt` for an address of `2^W` or more, which the `W` address lines cannot carry
  (R31, R37, D30). Safe. -/
  | noSuchAddress
  deriving DecidableEq, Repr

/-- Why an instruction has no meaning. Nothing in this model raises it. -/
inductive Refusal where
  /-- The form of an arm of `exec` whose instruction has no meaning yet; no arm has it. Safe. -/
  | notModelled (mnemonic : String)
  deriving DecidableEq, Repr

/-- Everything the spec gives the block (R11 item 2, R13 to R30). -/
structure State where
  /-- The Profile: given at the start of a build and constant (R19, R30). -/
  profile : Profile
  /-- Which step of Run comes next, or how Run ended; it holds the recorded error (R154, R155). -/
  stage : Stage
  /-- The base OpcodeTable `B`; empty while it is not built and after the build (R21, R30). -/
  base : OpcodeTable
  /-- The ExpandedTable `E`; empty while it is not built and after the build (R22, R30). -/
  expanded : ExpandedTable
  /-- The builder's address counter `addr` (R15). -/
  addr : Nat
  /-- The partial image: the bytes emitted so far (R24). -/
  image : List Byte
  /-- The RomImage in its chip or chips; absent until a build succeeded (R23, R30). -/
  rom : Option Rom
  /-- The value on the read port's address lines `A` (R26). -/
  addressLines : Nat
  /-- The read port's output `D`: absent while there is no ROM, and with it the byte at the address on
  the lines (R26, R30, R44, R120; log entry 8). -/
  dataOut : Option Byte
  deriving DecidableEq, Repr

/-- The state from which every build of `P` starts (R154): no output, since there is no ROM (R30), and the
address lines at the model's own 0 (R30 states no value; log entry 7). -/
def State.start (P : Profile) : State where
  profile := P
  stage := .checkCatalog
  base := []
  expanded := []
  addr := 0
  image := []
  rom := none
  addressLines := 0
  dataOut := none

/-- The state after reset: the start of a build (R154) of TOY, the one profile the source itself gives
complete enough to build (46_profiles.md; log entry 1). -/
def State.reset : State := State.start toyProfile

/-- The builder's `addr <- addr + 1` after `Emit(b)` (R113, R116). -/
def State.emit (s : State) (b : Byte) : State :=
  { s with image := s.image ++ [b], addr := s.addr + 1 }

/-- Run goes on to its next step. -/
def State.atStage (s : State) (g : Stage) : State := { s with stage := g }

/-- The read port answers `b` at address `A`. -/
def State.answered (s : State) (A : Nat) (b : Byte) : State :=
  { s with addressLines := A, dataOut := some b }

end Sys2Proof.Machine
end

