-- ==== Sys2Proof/Machine/Ops.lean ====
section
/-! DEFINITION. The named operations over the state: the memory of a chip, the programmed ROM, the read
port, the bank, and what `raise` does. -/

namespace Sys2Proof.Machine

/-- Read of one cell; `u a` is what an unlisted address `a` reads as. -/
def Memory.read (u : Nat → Byte) : Memory → Nat → Byte
  | [], a => u a
  | (k, b) :: m, a => if k = a then b else Memory.read u m a

/-- Write of one cell, keeping the canonical form: a cell that gets what its address reads as when
unlisted is not listed. Only programming a chip writes (R41, R156 (a)). -/
def Memory.write (u : Nat → Byte) : Memory → Nat → Byte → Memory
  | [], a, b => if b = u a then [] else [(a, b)]
  | (k, c) :: m, a, b =>
    if a < k then (if b = u a then (k, c) :: m else (a, b) :: (k, c) :: m)
    else if a = k then (if b = u a then m else (a, b) :: m)
    else (k, c) :: Memory.write u m a b

/-- The canonical form of a chip of `n` cells: addresses strictly rising and below `n`, no entry equal
to what its address reads as when unlisted. -/
abbrev Memory.wf (u : Nat → Byte) (n : Nat) (m : Memory) : Prop :=
  m.Pairwise (fun c d => c.1 < d.1) ∧ ∀ c ∈ m, c.1 < n ∧ c.2 ≠ u c.1

/-- Program a chip with a byte sequence from address `a` on (R156 (a)). -/
def Memory.program (u : Nat → Byte) (m : Memory) (a : Nat) : List Byte → Memory
  | [] => m
  | b :: bs => Memory.program u (Memory.write u m a b) (a + 1) bs

/-- What an unlisted address of a chip reads as: the contents the spec gives the ROM, `image[A]` of the
profile in closed form (R117, R153), `first` being the chip's first address in the logical ROM (R118). -/
def unlisted (P : Profile) (first a : Nat) : Byte := imageByte P (first + a)

/-- `Read(A)`: the byte at a logical address; the top address bit selects the chip of a split build and
the rest is the address in the chip (R118, R120). -/
def Rom.read (P : Profile) (r : Rom) (A : Nat) : Byte :=
  match r with
  | .one m => Memory.read (unlisted P 0) m A
  | .two m0 m1 =>
    if A.testBit (P.W - 1) then Memory.read (unlisted P (splitPoint P)) m1 (A % splitPoint P)
    else Memory.read (unlisted P 0) m0 (A % splitPoint P)

/-- The chip or chips of `P` programmed with a finished image, cut in two when the profile asks (R118,
R155 step 7, R156 (a)). -/
def Rom.program (P : Profile) (image : List Byte) : Rom :=
  if splits P then
    .two (Memory.program (unlisted P 0) [] 0 (splitImage P image).1)
      (Memory.program (unlisted P (splitPoint P)) [] 0 (splitImage P image).2)
  else .one (Memory.program (unlisted P 0) [] 0 image)

/-- The canonical ROM of `P` whose every cell is the closed form of R117: nothing is listed. -/
def Rom.ofProfile (P : Profile) : Rom := if splits P then .two [] [] else .one []

/-- The canonical form of every chip, and the number of chips the profile asks for. -/
def Rom.wf (P : Profile) : Rom → Prop
  | .one m => splits P = false ∧ Memory.wf (unlisted P 0) (2 ^ P.W) m
  | .two m0 m1 => splits P = true ∧ Memory.wf (unlisted P 0) (splitPoint P) m0 ∧
      Memory.wf (unlisted P (splitPoint P)) (splitPoint P) m1

/-- What is handed to the renderer: one byte sequence, or two for a split build, in address-ascending
order (R29). -/
def Rom.sequences (P : Profile) : Rom → List (List Byte)
  | .one m => [(List.range (2 ^ P.W)).map (Memory.read (unlisted P 0) m)]
  | .two m0 m1 => [(List.range (splitPoint P)).map (Memory.read (unlisted P 0) m0),
      (List.range (splitPoint P)).map (Memory.read (unlisted P (splitPoint P)) m1)]

/-- `Bank(f, o, s)`: the control word that `nslices` chips deliver side by side (R121). -/
def Rom.bank (P : Profile) (r : Rom) (f o st : Nat) : CtrlWord :=
  ((List.range (nslices P.Wc)).map fun k =>
    (r.read P (compose P.partition ⟨f, o, st, k⟩)).toNat <<< (8 * k)).sum

/-- The output `D = image[A]` as a function of the present address: none without a ROM, and none at an
address the lines cannot carry (R26, R30, R44, R120, D30). -/
def dataAt (P : Profile) (rom : Option Rom) (A : Nat) : Option Byte :=
  rom.bind fun r => if A < 2 ^ P.W then some (r.read P A) else none

/-- The output follows the ROM and the address lines at once: there is no clock and no enable (R26, R120,
D1). Every operation that changes the one or the other ends here, or says the output itself (log entry
8). -/
def State.settle (s : State) : State := { s with dataOut := dataAt s.profile s.rom s.addressLines }

/-- The read port: the address `A` is on the lines and `D = image[A]`; nothing else changes (R26, R38,
R120). There is no port without a completed build (R44) and no address beyond the lines (D30). -/
def State.readAt (s : State) (A : Nat) : Host.Outcome State Fault Refusal :=
  match s.rom with
  | none => .fault .noRom
  | some r => if A < 2 ^ s.profile.W then .next (s.answered A (r.read s.profile A))
      else .fault .noSuchAddress

/-- What an instruction of the table does: slot `o` of a named profile, at step `st`, under flags `f`,
is read in byte-slice `k`: its address goes on the lines of the read port (R27, R56, R112). -/
def readSlot (n : NamedProfile) (o f st k : Nat) (s : State) : Host.Outcome State Fault Refusal :=
  s.readAt (compose n.profile.partition ⟨f, o, st, k⟩)

/-- `raise X(info)`: the build ends at once with the outcome `error X(info)`. No table, no byte and no
ROM comes of it, nothing is saved and control goes nowhere (R141). -/
def State.raise (s : State) (e : BuildError) : State := s.atStage (.failed e)

/-- There is no return from an error: the only way on is a new build, from the initial state, with
another profile (R147, R154). -/
def State.newBuild (_ : State) (P : Profile) : State := State.start P

/-- The outside world puts a value on the `W` address lines, and the output is the byte there (R26). A value
of `2^W` or more cannot be presented (R31, D30); here its `W` low bits are (log entry 13). -/
def State.drive (s : State) (A : Nat) : State :=
  State.settle { s with addressLines := A % 2 ^ s.profile.W }

end Sys2Proof.Machine
end

