-- ==== Sys2Proof/Machine/Builder.lean ====
section
/-! DEFINITION. The builder: the seven steps of Run, one machine step each, the address loop one
`Emit` a step (70_reset_and_hazards.md R155, 45_rom_image_builder.md R113, R116). -/

namespace Sys2Proof.Machine

/-- A check passes to the next stage or raises its error (R141, R155 steps 1 to 3). -/
def State.checked (s : State) (e : Option BuildError) (g : Stage) : State :=
  match e with
  | none => s.atStage g
  | some e => s.raise e

/-- Step 4: the base table (R155, R86). -/
def State.makeBase (s : State) : State :=
  { s with base := baseTable s.profile, stage := .makeExpanded }

/-- Step 5: the expanded table, from the base table the state holds; the loop starts at `addr = 0` with
an empty image (R155, R93, R113). -/
def State.makeExpanded (s : State) : State :=
  { s with expanded := expandTable s.profile s.base, addr := 0, image := [], stage := .addressLoop }

/-- Step 7: the finished image is handed over and programmed; the tables and the builder's copy are
gone, and the output is the byte at the address that stands on the lines (R155, R30, R44, R118). -/
def State.finish (s : State) : State :=
  State.settle { s with
    rom := some (Rom.program s.profile s.image), base := [], expanded := [], image := [],
    stage := .reading }

/-- One iteration of the address loop, or its end (R113). -/
def State.loopStep (s : State) : State :=
  if s.addr < 2 ^ s.profile.W then s.emit (romByte s.profile s.expanded s.addr) else s.finish

/-- One step of Run (R155). At the two ends of Run, where nothing is left to build, the state stays. -/
def State.buildStep (s : State) : State :=
  match s.stage with
  | .checkCatalog =>
    s.checked ((catalogCheck s.profile).map .signalCollisionError) .checkPartition
  | .checkPartition =>
    s.checked ((partitionCheck s.profile).map .addressPartitionError) .checkShape
  | .checkShape => s.checked ((shapeCheck s.profile).map .profileRefused) .makeBase
  | .makeBase => s.makeBase
  | .makeExpanded => s.makeExpanded
  | .addressLoop => s.loopStep
  | .reading => s
  | .failed _ => s

end Sys2Proof.Machine
end

