-- ==== Sys2Proof/Machine/Arithmetic.lean ====
section
/-! DEFINITION. The meanings of NOP, ADD and SUB (R75, R79, R80). Each puts the
address of its slot on the read port and gets the byte the ROM holds there (R112, R120); the words
of the microprogram come from its body (Machine/Microprograms.lean) through the profile's table and
the expander. Nothing else changes: no flag is written and nothing is raised at the port. -/

namespace Sys2Proof.Machine

/-- NOP of REF, opcode 0: `fetch0 ; fetch1`, then idle words (R75). -/
def execRefNop (f st k : Nat) (s : State) : Host.Outcome State Fault Refusal :=
  readSlot .ref 0 f st k s

/-- ADD of REF, opcode 3: `fetch0 ; fetch1 ; IRO|MAI ; RMO|BRI ; SMO|ACI|FLI` (R79). -/
def execRefAdd (f st k : Nat) (s : State) : Host.Outcome State Fault Refusal :=
  readSlot .ref 3 f st k s

/-- SUB of REF, opcode 4: `fetch0 ; fetch1 ; IRO|MAI ; RMO|BRI ; SMO|ACI|FLI|SBM` (R80). -/
def execRefSub (f st k : Nat) (s : State) : Host.Outcome State Fault Refusal :=
  readSlot .ref 4 f st k s

/-- NOP of REF17, opcode 0: `fetch0 ; fetch1`, then idle words (R75). -/
def execRef17Nop (f st k : Nat) (s : State) : Host.Outcome State Fault Refusal :=
  readSlot .ref17 0 f st k s

/-- ADD of REF17, opcode 3: `fetch0 ; fetch1 ; IRO|MAI ; RMO|BRI ; SMO|ACI|FLI` (R79). -/
def execRef17Add (f st k : Nat) (s : State) : Host.Outcome State Fault Refusal :=
  readSlot .ref17 3 f st k s

/-- SUB of REF17, opcode 4: `fetch0 ; fetch1 ; IRO|MAI ; RMO|BRI ; SMO|ACI|FLI|SBM` (R80). -/
def execRef17Sub (f st k : Nat) (s : State) : Host.Outcome State Fault Refusal :=
  readSlot .ref17 4 f st k s

end Sys2Proof.Machine
end

