-- ==== Sys2Proof/Machine/Conditional.lean ====
section
/-! DEFINITION. The meanings of the flag-conditional jumps (R85, R132, R134 to R137). Each puts the
address of its slot on the read port and gets the byte the ROM holds there (R112, R120); the words
of the microprogram come from its body (Machine/Microprograms.lean) through the profile's table and
the expander. Nothing else changes: no flag is written and nothing is raised at the port. -/

namespace Sys2Proof.Machine

/-- JZ of REF, opcode 6: `fetch0 ; fetch1`, and `IRO|PCI` at step 2 when Z = `f[1]` is 1 (R134). -/
def execRefJz (f st k : Nat) (s : State) : Host.Outcome State Fault Refusal :=
  readSlot .ref 6 f st k s

/-- JC of REF, opcode 7: `fetch0 ; fetch1`, and `IRO|PCI` at step 2 when C = `f[0]` is 1 (R135). -/
def execRefJc (f st k : Nat) (s : State) : Host.Outcome State Fault Refusal :=
  readSlot .ref 7 f st k s

/-- XJN of REF, opcode 17: `fetch0 ; fetch1 ; EXC`, with `IRO|PCI` beside EXC at step 2 when N = `f[2]` is 1 (R136). -/
def execRefXjn (f st k : Nat) (s : State) : Host.Outcome State Fault Refusal :=
  readSlot .ref 17 f st k s

/-- XJV of REF, opcode 18: `fetch0 ; fetch1 ; EXC`, with `IRO|PCI` beside EXC at step 2 when V = `f[3]` is 1 (R137). -/
def execRefXjv (f st k : Nat) (s : State) : Host.Outcome State Fault Refusal :=
  readSlot .ref 18 f st k s

/-- JZ of REF17, opcode 6: `fetch0 ; fetch1`, and `IRO|PCI` at step 2 when Z = `f[1]` is 1 (R134). -/
def execRef17Jz (f st k : Nat) (s : State) : Host.Outcome State Fault Refusal :=
  readSlot .ref17 6 f st k s

/-- JC of REF17, opcode 7: `fetch0 ; fetch1`, and `IRO|PCI` at step 2 when C = `f[0]` is 1 (R135). -/
def execRef17Jc (f st k : Nat) (s : State) : Host.Outcome State Fault Refusal :=
  readSlot .ref17 7 f st k s

/-- XJN of REF17, opcode 17: `fetch0 ; fetch1 ; EXC`, with `IRO|PCI` beside EXC at step 2 when N = `f[2]` is 1 (R136). -/
def execRef17Xjn (f st k : Nat) (s : State) : Host.Outcome State Fault Refusal :=
  readSlot .ref17 17 f st k s

/-- XJV of REF17, opcode 18: `fetch0 ; fetch1 ; EXC`, with `IRO|PCI` beside EXC at step 2 when V = `f[3]` is 1 (R137). -/
def execRef17Xjv (f st k : Nat) (s : State) : Host.Outcome State Fault Refusal :=
  readSlot .ref17 18 f st k s

/-- XJZ of MINI, opcode 1: `fetch0 ; fetch1 ; EXC`, with `IRO|PCI` beside EXC at step 2 when Z = `f[1]` is 1 (R132). -/
def execMiniXjz (f st k : Nat) (s : State) : Host.Outcome State Fault Refusal :=
  readSlot .mini 1 f st k s

end Sys2Proof.Machine
end

