-- ==== Sys2Proof/Machine/Control.lean ====
section
/-! DEFINITION. The meanings of the jump, the halts and the extend marker (R76, R82, R83, R123). Each puts the
address of its slot on the read port and gets the byte the ROM holds there (R112, R120); the words
of the microprogram come from its body (Machine/Microprograms.lean) through the profile's table and
the expander. Nothing else changes: no flag is written and nothing is raised at the port. -/

namespace Sys2Proof.Machine

/-- HALT of TOY, opcode 1: `fetch0 ; fetch1 ; HLT` (R123). -/
def execToyHalt (f st : Nat) (s : State) : Host.Outcome State Fault Refusal :=
  readSlot .toy 1 f st 0 s

/-- JMP of REF, opcode 5: `fetch0 ; fetch1 ; IRO|PCI` (R76). -/
def execRefJmp (f st k : Nat) (s : State) : Host.Outcome State Fault Refusal :=
  readSlot .ref 5 f st k s

/-- EXT of REF, opcode 14: `fetch0 ; fetch1 ; EXS` (R83). -/
def execRefExt (f st k : Nat) (s : State) : Host.Outcome State Fault Refusal :=
  readSlot .ref 14 f st k s

/-- HLT of REF, opcode 15: `fetch0 ; fetch1 ; HLT` (R82). -/
def execRefHlt (f st k : Nat) (s : State) : Host.Outcome State Fault Refusal :=
  readSlot .ref 15 f st k s

/-- JMP of REF17, opcode 5: `fetch0 ; fetch1 ; IRO|PCI` (R76). -/
def execRef17Jmp (f st k : Nat) (s : State) : Host.Outcome State Fault Refusal :=
  readSlot .ref17 5 f st k s

/-- EXT of REF17, opcode 14: `fetch0 ; fetch1 ; EXS` (R83). -/
def execRef17Ext (f st k : Nat) (s : State) : Host.Outcome State Fault Refusal :=
  readSlot .ref17 14 f st k s

/-- HLT of REF17, opcode 15: `fetch0 ; fetch1 ; HLT` (R82). -/
def execRef17Hlt (f st k : Nat) (s : State) : Host.Outcome State Fault Refusal :=
  readSlot .ref17 15 f st k s

end Sys2Proof.Machine
end

