-- ==== Sys2Proof/Machine/Extended.lean ====
section
/-! DEFINITION. The meanings of the undefined slots of the extended page, which still clear the extend flip-flop (R84). Each puts the
address of its slot on the read port and gets the byte the ROM holds there (R112, R120); the words
of the microprogram come from its body (Machine/Microprograms.lean) through the profile's table and
the expander. Nothing else changes: no flag is written and nothing is raised at the port. -/

namespace Sys2Proof.Machine

/-- XUNDEF_16 of REF, opcode 16: `fetch0 ; fetch1 ; EXC`: undefined, in `ext_slots` (R84). -/
def execRefXUndef16 (f st k : Nat) (s : State) : Host.Outcome State Fault Refusal :=
  readSlot .ref 16 f st k s

/-- XUNDEF_19 of REF, opcode 19: `fetch0 ; fetch1 ; EXC`: undefined, in `ext_slots` (R84). -/
def execRefXUndef19 (f st k : Nat) (s : State) : Host.Outcome State Fault Refusal :=
  readSlot .ref 19 f st k s

/-- XUNDEF_20 of REF, opcode 20: `fetch0 ; fetch1 ; EXC`: undefined, in `ext_slots` (R84). -/
def execRefXUndef20 (f st k : Nat) (s : State) : Host.Outcome State Fault Refusal :=
  readSlot .ref 20 f st k s

/-- XUNDEF_21 of REF, opcode 21: `fetch0 ; fetch1 ; EXC`: undefined, in `ext_slots` (R84). -/
def execRefXUndef21 (f st k : Nat) (s : State) : Host.Outcome State Fault Refusal :=
  readSlot .ref 21 f st k s

/-- XUNDEF_22 of REF, opcode 22: `fetch0 ; fetch1 ; EXC`: undefined, in `ext_slots` (R84). -/
def execRefXUndef22 (f st k : Nat) (s : State) : Host.Outcome State Fault Refusal :=
  readSlot .ref 22 f st k s

/-- XUNDEF_23 of REF, opcode 23: `fetch0 ; fetch1 ; EXC`: undefined, in `ext_slots` (R84). -/
def execRefXUndef23 (f st k : Nat) (s : State) : Host.Outcome State Fault Refusal :=
  readSlot .ref 23 f st k s

/-- XUNDEF_24 of REF, opcode 24: `fetch0 ; fetch1 ; EXC`: undefined, in `ext_slots` (R84). -/
def execRefXUndef24 (f st k : Nat) (s : State) : Host.Outcome State Fault Refusal :=
  readSlot .ref 24 f st k s

/-- XUNDEF_25 of REF, opcode 25: `fetch0 ; fetch1 ; EXC`: undefined, in `ext_slots` (R84). -/
def execRefXUndef25 (f st k : Nat) (s : State) : Host.Outcome State Fault Refusal :=
  readSlot .ref 25 f st k s

/-- XUNDEF_26 of REF, opcode 26: `fetch0 ; fetch1 ; EXC`: undefined, in `ext_slots` (R84). -/
def execRefXUndef26 (f st k : Nat) (s : State) : Host.Outcome State Fault Refusal :=
  readSlot .ref 26 f st k s

/-- XUNDEF_27 of REF, opcode 27: `fetch0 ; fetch1 ; EXC`: undefined, in `ext_slots` (R84). -/
def execRefXUndef27 (f st k : Nat) (s : State) : Host.Outcome State Fault Refusal :=
  readSlot .ref 27 f st k s

/-- XUNDEF_28 of REF, opcode 28: `fetch0 ; fetch1 ; EXC`: undefined, in `ext_slots` (R84). -/
def execRefXUndef28 (f st k : Nat) (s : State) : Host.Outcome State Fault Refusal :=
  readSlot .ref 28 f st k s

/-- XUNDEF_29 of REF, opcode 29: `fetch0 ; fetch1 ; EXC`: undefined, in `ext_slots` (R84). -/
def execRefXUndef29 (f st k : Nat) (s : State) : Host.Outcome State Fault Refusal :=
  readSlot .ref 29 f st k s

/-- XUNDEF_30 of REF, opcode 30: `fetch0 ; fetch1 ; EXC`: undefined, in `ext_slots` (R84). -/
def execRefXUndef30 (f st k : Nat) (s : State) : Host.Outcome State Fault Refusal :=
  readSlot .ref 30 f st k s

/-- XUNDEF_31 of REF, opcode 31: `fetch0 ; fetch1 ; EXC`: undefined, in `ext_slots` (R84). -/
def execRefXUndef31 (f st k : Nat) (s : State) : Host.Outcome State Fault Refusal :=
  readSlot .ref 31 f st k s

/-- XUNDEF_16 of REF17, opcode 16: `fetch0 ; fetch1 ; EXC`: undefined, in `ext_slots` (R84). -/
def execRef17XUndef16 (f st k : Nat) (s : State) : Host.Outcome State Fault Refusal :=
  readSlot .ref17 16 f st k s

/-- XUNDEF_19 of REF17, opcode 19: `fetch0 ; fetch1 ; EXC`: undefined, in `ext_slots` (R84). -/
def execRef17XUndef19 (f st k : Nat) (s : State) : Host.Outcome State Fault Refusal :=
  readSlot .ref17 19 f st k s

/-- XUNDEF_20 of REF17, opcode 20: `fetch0 ; fetch1 ; EXC`: undefined, in `ext_slots` (R84). -/
def execRef17XUndef20 (f st k : Nat) (s : State) : Host.Outcome State Fault Refusal :=
  readSlot .ref17 20 f st k s

/-- XUNDEF_21 of REF17, opcode 21: `fetch0 ; fetch1 ; EXC`: undefined, in `ext_slots` (R84). -/
def execRef17XUndef21 (f st k : Nat) (s : State) : Host.Outcome State Fault Refusal :=
  readSlot .ref17 21 f st k s

/-- XUNDEF_22 of REF17, opcode 22: `fetch0 ; fetch1 ; EXC`: undefined, in `ext_slots` (R84). -/
def execRef17XUndef22 (f st k : Nat) (s : State) : Host.Outcome State Fault Refusal :=
  readSlot .ref17 22 f st k s

/-- XUNDEF_23 of REF17, opcode 23: `fetch0 ; fetch1 ; EXC`: undefined, in `ext_slots` (R84). -/
def execRef17XUndef23 (f st k : Nat) (s : State) : Host.Outcome State Fault Refusal :=
  readSlot .ref17 23 f st k s

/-- XUNDEF_24 of REF17, opcode 24: `fetch0 ; fetch1 ; EXC`: undefined, in `ext_slots` (R84). -/
def execRef17XUndef24 (f st k : Nat) (s : State) : Host.Outcome State Fault Refusal :=
  readSlot .ref17 24 f st k s

/-- XUNDEF_25 of REF17, opcode 25: `fetch0 ; fetch1 ; EXC`: undefined, in `ext_slots` (R84). -/
def execRef17XUndef25 (f st k : Nat) (s : State) : Host.Outcome State Fault Refusal :=
  readSlot .ref17 25 f st k s

/-- XUNDEF_26 of REF17, opcode 26: `fetch0 ; fetch1 ; EXC`: undefined, in `ext_slots` (R84). -/
def execRef17XUndef26 (f st k : Nat) (s : State) : Host.Outcome State Fault Refusal :=
  readSlot .ref17 26 f st k s

/-- XUNDEF_27 of REF17, opcode 27: `fetch0 ; fetch1 ; EXC`: undefined, in `ext_slots` (R84). -/
def execRef17XUndef27 (f st k : Nat) (s : State) : Host.Outcome State Fault Refusal :=
  readSlot .ref17 27 f st k s

/-- XUNDEF_28 of REF17, opcode 28: `fetch0 ; fetch1 ; EXC`: undefined, in `ext_slots` (R84). -/
def execRef17XUndef28 (f st k : Nat) (s : State) : Host.Outcome State Fault Refusal :=
  readSlot .ref17 28 f st k s

/-- XUNDEF_29 of REF17, opcode 29: `fetch0 ; fetch1 ; EXC`: undefined, in `ext_slots` (R84). -/
def execRef17XUndef29 (f st k : Nat) (s : State) : Host.Outcome State Fault Refusal :=
  readSlot .ref17 29 f st k s

/-- XUNDEF_30 of REF17, opcode 30: `fetch0 ; fetch1 ; EXC`: undefined, in `ext_slots` (R84). -/
def execRef17XUndef30 (f st k : Nat) (s : State) : Host.Outcome State Fault Refusal :=
  readSlot .ref17 30 f st k s

/-- XUNDEF_31 of REF17, opcode 31: `fetch0 ; fetch1 ; EXC`: undefined, in `ext_slots` (R84). -/
def execRef17XUndef31 (f st k : Nat) (s : State) : Host.Outcome State Fault Refusal :=
  readSlot .ref17 31 f st k s

end Sys2Proof.Machine
end

