-- ==== Sys2Proof/Machine/Transfer.lean ====
section
/-! DEFINITION. The meanings of the load, store and output opcodes (R77, R78, R81, R123). Each puts the
address of its slot on the read port and gets the byte the ROM holds there (R112, R120); the words
of the microprogram come from its body (Machine/Microprograms.lean) through the profile's table and
the expander. Nothing else changes: no flag is written and nothing is raised at the port. -/

namespace Sys2Proof.Machine

/-- LOAD of TOY, opcode 0: `fetch0 ; fetch1 ; MAI|IRO ; RDI` (R123). -/
def execToyLoad (f st : Nat) (s : State) : Host.Outcome State Fault Refusal :=
  readSlot .toy 0 f st 0 s

/-- LDA of REF, opcode 1: `fetch0 ; fetch1 ; IRO|MAI ; RMO|ACI` (R77). -/
def execRefLda (f st k : Nat) (s : State) : Host.Outcome State Fault Refusal :=
  readSlot .ref 1 f st k s

/-- STA of REF, opcode 2: `fetch0 ; fetch1 ; IRO|MAI ; ACO|RMI` (R78). -/
def execRefSta (f st k : Nat) (s : State) : Host.Outcome State Fault Refusal :=
  readSlot .ref 2 f st k s

/-- OUT of REF, opcode 8: `fetch0 ; fetch1 ; ACO|ORI` (R81). -/
def execRefOut (f st k : Nat) (s : State) : Host.Outcome State Fault Refusal :=
  readSlot .ref 8 f st k s

/-- LDA of REF17, opcode 1: `fetch0 ; fetch1 ; IRO|MAI ; RMO|ACI` (R77). -/
def execRef17Lda (f st k : Nat) (s : State) : Host.Outcome State Fault Refusal :=
  readSlot .ref17 1 f st k s

/-- STA of REF17, opcode 2: `fetch0 ; fetch1 ; IRO|MAI ; ACO|RMI` (R78). -/
def execRef17Sta (f st k : Nat) (s : State) : Host.Outcome State Fault Refusal :=
  readSlot .ref17 2 f st k s

/-- OUT of REF17, opcode 8: `fetch0 ; fetch1 ; ACO|ORI` (R81). -/
def execRef17Out (f st k : Nat) (s : State) : Host.Outcome State Fault Refusal :=
  readSlot .ref17 8 f st k s

/-- LDA of MINI, opcode 0: `fetch0 ; fetch1 ; IRO|MAI ; RMO|ACI` (R77). -/
def execMiniLda (f st k : Nat) (s : State) : Host.Outcome State Fault Refusal :=
  readSlot .mini 0 f st k s

end Sys2Proof.Machine
end

