-- ==== Sys2Proof/Machine/Undefined.lean ====
section
/-! DEFINITION. The meanings of the undefined opcodes, fetch only (R57, R60, R74, R143). Each puts the
address of its slot on the read port and gets the byte the ROM holds there (R112, R120); the words
of the microprogram come from its body (Machine/Microprograms.lean) through the profile's table and
the expander. Nothing else changes: no flag is written and nothing is raised at the port. -/

namespace Sys2Proof.Machine

/-- UNDEF_9 of REF, opcode 9: `fetch0 ; fetch1`, then idle words: undefined, fetch only (R74). -/
def execRefUndef9 (f st k : Nat) (s : State) : Host.Outcome State Fault Refusal :=
  readSlot .ref 9 f st k s

/-- UNDEF_10 of REF, opcode 10: `fetch0 ; fetch1`, then idle words: undefined, fetch only (R74). -/
def execRefUndef10 (f st k : Nat) (s : State) : Host.Outcome State Fault Refusal :=
  readSlot .ref 10 f st k s

/-- UNDEF_11 of REF, opcode 11: `fetch0 ; fetch1`, then idle words: undefined, fetch only (R74). -/
def execRefUndef11 (f st k : Nat) (s : State) : Host.Outcome State Fault Refusal :=
  readSlot .ref 11 f st k s

/-- UNDEF_12 of REF, opcode 12: `fetch0 ; fetch1`, then idle words: undefined, fetch only (R74). -/
def execRefUndef12 (f st k : Nat) (s : State) : Host.Outcome State Fault Refusal :=
  readSlot .ref 12 f st k s

/-- UNDEF_13 of REF, opcode 13: `fetch0 ; fetch1`, then idle words: undefined, fetch only (R74). -/
def execRefUndef13 (f st k : Nat) (s : State) : Host.Outcome State Fault Refusal :=
  readSlot .ref 13 f st k s

/-- UNDEF_9 of REF17, opcode 9: `fetch0 ; fetch1`, then idle words: undefined, fetch only (R74). -/
def execRef17Undef9 (f st k : Nat) (s : State) : Host.Outcome State Fault Refusal :=
  readSlot .ref17 9 f st k s

/-- UNDEF_10 of REF17, opcode 10: `fetch0 ; fetch1`, then idle words: undefined, fetch only (R74). -/
def execRef17Undef10 (f st k : Nat) (s : State) : Host.Outcome State Fault Refusal :=
  readSlot .ref17 10 f st k s

/-- UNDEF_11 of REF17, opcode 11: `fetch0 ; fetch1`, then idle words: undefined, fetch only (R74). -/
def execRef17Undef11 (f st k : Nat) (s : State) : Host.Outcome State Fault Refusal :=
  readSlot .ref17 11 f st k s

/-- UNDEF_12 of REF17, opcode 12: `fetch0 ; fetch1`, then idle words: undefined, fetch only (R74). -/
def execRef17Undef12 (f st k : Nat) (s : State) : Host.Outcome State Fault Refusal :=
  readSlot .ref17 12 f st k s

/-- UNDEF_13 of REF17, opcode 13: `fetch0 ; fetch1`, then idle words: undefined, fetch only (R74). -/
def execRef17Undef13 (f st k : Nat) (s : State) : Host.Outcome State Fault Refusal :=
  readSlot .ref17 13 f st k s

/-- UNDEF_32_63 of REF17, opcode 32 + low: `fetch0 ; fetch1`, then idle words: undefined, fetch only (R74). -/
def execRef17Undef32To63 (low f st k : Nat) (s : State) : Host.Outcome State Fault Refusal :=
  readSlot .ref17 (32 + low) f st k s

/-- UNDEF_64_95 of REF17, opcode 64 + low: `fetch0 ; fetch1`, then idle words: undefined, fetch only (R74). -/
def execRef17Undef64To95 (low f st k : Nat) (s : State) : Host.Outcome State Fault Refusal :=
  readSlot .ref17 (64 + low) f st k s

/-- UNDEF_96_127 of REF17, opcode 96 + low: `fetch0 ; fetch1`, then idle words: undefined, fetch only (R74). -/
def execRef17Undef96To127 (low f st k : Nat) (s : State) : Host.Outcome State Fault Refusal :=
  readSlot .ref17 (96 + low) f st k s

end Sys2Proof.Machine
end

