-- ==== Sys2Proof/Machine/Dispatch.lean ====
section
/-! DEFINITION. One arm per constructor: the meaning of each instruction. -/

namespace Sys2Proof.Machine

/-- The meaning of an instruction. -/
def exec (i : Instr) (s : State) : Host.Outcome State Fault Refusal :=
  match i with
  | .toyLoad f st => Sys2Proof.Machine.execToyLoad f st s
  | .toyHalt f st => Sys2Proof.Machine.execToyHalt f st s
  | .refNop f st k => Sys2Proof.Machine.execRefNop f st k s
  | .refLda f st k => Sys2Proof.Machine.execRefLda f st k s
  | .refSta f st k => Sys2Proof.Machine.execRefSta f st k s
  | .refAdd f st k => Sys2Proof.Machine.execRefAdd f st k s
  | .refSub f st k => Sys2Proof.Machine.execRefSub f st k s
  | .refJmp f st k => Sys2Proof.Machine.execRefJmp f st k s
  | .refJz f st k => Sys2Proof.Machine.execRefJz f st k s
  | .refJc f st k => Sys2Proof.Machine.execRefJc f st k s
  | .refOut f st k => Sys2Proof.Machine.execRefOut f st k s
  | .refUndef9 f st k => Sys2Proof.Machine.execRefUndef9 f st k s
  | .refUndef10 f st k => Sys2Proof.Machine.execRefUndef10 f st k s
  | .refUndef11 f st k => Sys2Proof.Machine.execRefUndef11 f st k s
  | .refUndef12 f st k => Sys2Proof.Machine.execRefUndef12 f st k s
  | .refUndef13 f st k => Sys2Proof.Machine.execRefUndef13 f st k s
  | .refExt f st k => Sys2Proof.Machine.execRefExt f st k s
  | .refHlt f st k => Sys2Proof.Machine.execRefHlt f st k s
  | .refXUndef16 f st k => Sys2Proof.Machine.execRefXUndef16 f st k s
  | .refXjn f st k => Sys2Proof.Machine.execRefXjn f st k s
  | .refXjv f st k => Sys2Proof.Machine.execRefXjv f st k s
  | .refXUndef19 f st k => Sys2Proof.Machine.execRefXUndef19 f st k s
  | .refXUndef20 f st k => Sys2Proof.Machine.execRefXUndef20 f st k s
  | .refXUndef21 f st k => Sys2Proof.Machine.execRefXUndef21 f st k s
  | .refXUndef22 f st k => Sys2Proof.Machine.execRefXUndef22 f st k s
  | .refXUndef23 f st k => Sys2Proof.Machine.execRefXUndef23 f st k s
  | .refXUndef24 f st k => Sys2Proof.Machine.execRefXUndef24 f st k s
  | .refXUndef25 f st k => Sys2Proof.Machine.execRefXUndef25 f st k s
  | .refXUndef26 f st k => Sys2Proof.Machine.execRefXUndef26 f st k s
  | .refXUndef27 f st k => Sys2Proof.Machine.execRefXUndef27 f st k s
  | .refXUndef28 f st k => Sys2Proof.Machine.execRefXUndef28 f st k s
  | .refXUndef29 f st k => Sys2Proof.Machine.execRefXUndef29 f st k s
  | .refXUndef30 f st k => Sys2Proof.Machine.execRefXUndef30 f st k s
  | .refXUndef31 f st k => Sys2Proof.Machine.execRefXUndef31 f st k s
  | .ref17Nop f st k => Sys2Proof.Machine.execRef17Nop f st k s
  | .ref17Lda f st k => Sys2Proof.Machine.execRef17Lda f st k s
  | .ref17Sta f st k => Sys2Proof.Machine.execRef17Sta f st k s
  | .ref17Add f st k => Sys2Proof.Machine.execRef17Add f st k s
  | .ref17Sub f st k => Sys2Proof.Machine.execRef17Sub f st k s
  | .ref17Jmp f st k => Sys2Proof.Machine.execRef17Jmp f st k s
  | .ref17Jz f st k => Sys2Proof.Machine.execRef17Jz f st k s
  | .ref17Jc f st k => Sys2Proof.Machine.execRef17Jc f st k s
  | .ref17Out f st k => Sys2Proof.Machine.execRef17Out f st k s
  | .ref17Undef9 f st k => Sys2Proof.Machine.execRef17Undef9 f st k s
  | .ref17Undef10 f st k => Sys2Proof.Machine.execRef17Undef10 f st k s
  | .ref17Undef11 f st k => Sys2Proof.Machine.execRef17Undef11 f st k s
  | .ref17Undef12 f st k => Sys2Proof.Machine.execRef17Undef12 f st k s
  | .ref17Undef13 f st k => Sys2Proof.Machine.execRef17Undef13 f st k s
  | .ref17Ext f st k => Sys2Proof.Machine.execRef17Ext f st k s
  | .ref17Hlt f st k => Sys2Proof.Machine.execRef17Hlt f st k s
  | .ref17XUndef16 f st k => Sys2Proof.Machine.execRef17XUndef16 f st k s
  | .ref17Xjn f st k => Sys2Proof.Machine.execRef17Xjn f st k s
  | .ref17Xjv f st k => Sys2Proof.Machine.execRef17Xjv f st k s
  | .ref17XUndef19 f st k => Sys2Proof.Machine.execRef17XUndef19 f st k s
  | .ref17XUndef20 f st k => Sys2Proof.Machine.execRef17XUndef20 f st k s
  | .ref17XUndef21 f st k => Sys2Proof.Machine.execRef17XUndef21 f st k s
  | .ref17XUndef22 f st k => Sys2Proof.Machine.execRef17XUndef22 f st k s
  | .ref17XUndef23 f st k => Sys2Proof.Machine.execRef17XUndef23 f st k s
  | .ref17XUndef24 f st k => Sys2Proof.Machine.execRef17XUndef24 f st k s
  | .ref17XUndef25 f st k => Sys2Proof.Machine.execRef17XUndef25 f st k s
  | .ref17XUndef26 f st k => Sys2Proof.Machine.execRef17XUndef26 f st k s
  | .ref17XUndef27 f st k => Sys2Proof.Machine.execRef17XUndef27 f st k s
  | .ref17XUndef28 f st k => Sys2Proof.Machine.execRef17XUndef28 f st k s
  | .ref17XUndef29 f st k => Sys2Proof.Machine.execRef17XUndef29 f st k s
  | .ref17XUndef30 f st k => Sys2Proof.Machine.execRef17XUndef30 f st k s
  | .ref17XUndef31 f st k => Sys2Proof.Machine.execRef17XUndef31 f st k s
  | .ref17Undef32To63 low f st k => Sys2Proof.Machine.execRef17Undef32To63 low f st k s
  | .ref17Undef64To95 low f st k => Sys2Proof.Machine.execRef17Undef64To95 low f st k s
  | .ref17Undef96To127 low f st k => Sys2Proof.Machine.execRef17Undef96To127 low f st k s
  | .miniLda f st k => Sys2Proof.Machine.execMiniLda f st k s
  | .miniXjz f st k => Sys2Proof.Machine.execMiniXjz f st k s

end Sys2Proof.Machine
end

