-- ==== Sys2Proof/Machine/Fetch.lean ====
section
/-! DEFINITION. How a step gets its instruction: the word is on the address lines of the read port. -/

namespace Sys2Proof.Machine

/-- The instruction the address lines select, where the profile is a named one (R26, R56). -/
def State.fetch (s : State) : Option Instr :=
  s.profile.named?.bind fun n => (decode n s.addressLines).toOption

/-- `s` as it stands after a successful build of `P` (R30, R155, R157), with the address `A` on the
lines and its byte on the output: what the loop of R113 leaves, the ROM in its canonical form. An `A` of `2^W` or more, which the lines
cannot carry (R31, D30), is not cut down as by `State.drive`: it stands there as given, there is no output,
and the next step is the fault `noSuchAddress` (log entry 22). -/
def State.programmedWith (s : State) (P : Profile) (A : Nat) : State :=
  State.settle { s with
    profile := P, stage := .reading, base := [], expanded := [], addr := 2 ^ P.W, image := [],
    rom := some (Rom.ofProfile P), addressLines := A }

end Sys2Proof.Machine
end

