-- ==== Sys2Proof/Machine/Step.lean ====
section
/-! DEFINITION. One step of the block: a step of the build while one runs (R155), and a read of the ROM
at the present address once it exists (R120, R157). -/

namespace Sys2Proof.Machine

/-- One step. While a build runs, its next step (R155). After a failed build, the error (R141, R147).
Once the ROM exists, the read port answers the address on its lines: of a named profile, by the
instruction that address is; of any other profile, directly (R5 (e), R120). -/
def step (s : State) : Host.Outcome State Fault Refusal :=
  match s.stage with
  | .failed e => .fault (.buildError e)
  | .reading =>
    match s.fetch with
    | some i => exec i s
    | none => s.readAt s.addressLines
  | _ => .next s.buildStep

/-- `s` with the ROM of the word's profile built and programmed, the read port reached, and the word on
the address lines (log entry 1), also where it is no address of that profile (log entry 22). -/
def State.withFetchWord (s : State) (nbits w : Nat) : State :=
  s.programmedWith (tableProfile nbits w).profile w

end Sys2Proof.Machine
end

