-- ==== Sys2Proof/Safety.lean ====
section
/-! DEFINITION. What counts as a safe run: valid profiles, the loaded ROM, and the invariant of the
machine, in the terms the statements use. -/

namespace Sys2Proof.Machine

/-- A valid profile: all three checks pass (R20). -/
abbrev Valid (P : Profile) : Prop := buildError P = none

/-- The ROM of `P` is there, programmed with the image of `P` and in its canonical form (R156). -/
def Loaded (P : Profile) (s : State) : Prop := s.profile = P ∧ s.rom = some (Rom.ofProfile P)

/-- Nothing has been built or emitted, and no ROM exists (R141, R154). -/
def NothingBuilt (s : State) : Prop :=
  s.base = [] ∧ s.expanded = [] ∧ s.addr = 0 ∧ s.image = [] ∧ s.rom = none

/-- What holds of every state a build and the reads after it pass through: each check that is behind has
passed, each table is the function of the profile that the spec gives, the partial image is the image up
to `addr` and no reader can see it, a ROM exists exactly after the build and holds the closed form,
the address lines carry no more than `W` bits, and the output is the ROM's byte at the present address, or
absent without a ROM (R15, R21 to R24, R26, R30, R44, R117, R120, R155). -/
def State.Inv (s : State) : Prop :=
  s.addressLines < 2 ^ s.profile.W ∧ s.dataOut = dataAt s.profile s.rom s.addressLines ∧
  match s.stage with
  | .checkCatalog => NothingBuilt s
  | .checkPartition => NothingBuilt s ∧ catalogCheck s.profile = none
  | .checkShape => NothingBuilt s ∧ catalogCheck s.profile = none ∧ partitionCheck s.profile = none
  | .makeBase => NothingBuilt s ∧ Valid s.profile
  | .makeExpanded => Valid s.profile ∧ s.base = baseTable s.profile ∧ s.expanded = [] ∧ s.addr = 0 ∧
      s.image = [] ∧ s.rom = none
  | .addressLoop => Valid s.profile ∧ s.base = baseTable s.profile ∧ s.expanded = expand s.profile ∧
      s.addr ≤ 2 ^ s.profile.W ∧ s.image = (List.range s.addr).map (imageByte s.profile) ∧ s.rom = none
  | .reading => Valid s.profile ∧ s.base = [] ∧ s.expanded = [] ∧ s.addr = 2 ^ s.profile.W ∧
      s.image = [] ∧ s.rom = some (Rom.ofProfile s.profile)
  | .failed e => NothingBuilt s ∧ buildError s.profile = some e

/-- The condition R142's table gives each reason. "Some slot" of `body_too_long` is a slot of `ops` (log
entry 21). -/
def ShapeCondition (P : Profile) : ShapeReason → Prop
  | .duplicateName => ¬ (P.signals.map fun e => e.1).Nodup
  | .unknownSignal => ∃ ns, WordSpec.names ns ∈ profileWords P ∧ ∃ n ∈ ns, ∀ b, (n, b) ∉ P.signals
  | .wordTooWide => ∃ w ∈ profileWords P, 2 ^ P.Wc ≤ P.word w
  | .opcodeOutOfRange => (∃ e ∈ P.ops, P.nopcodesDecl ≤ e.1) ∨ (∃ o ∈ P.extSlots, P.nopcodesDecl ≤ o) ∨
      ∃ e ∈ P.edits, 2 ^ P.NO ≤ e.opcode
  | .bodyTooLong => ∃ e ∈ P.ops, P.nstepsDecl < 2 + e.2.body.length
  | .editInFetch => ∃ e ∈ P.edits, e.step < 2
  | .editStepOutOfRange => ∃ e ∈ P.edits, 2 ^ P.NS ≤ e.step
  | .editMask => ∃ e ∈ P.edits, 2 ^ P.NF ≤ e.mask ∨
      ∃ b, e.value.testBit b = true ∧ e.mask.testBit b = false
  | .missingXc => ((∃ e ∈ P.ops, e.2.ext = true) ∨ P.extSlots ≠ []) ∧ P.xc = none
  | .stepsDecl => P.nstepsDecl < 2
  | .splitPoint => (∃ n, P.split = .point n ∧ n ≠ 2 ^ (P.W - 1)) ∨ (P.split ≠ .no ∧ P.W = 0)
  | .flagNames => ¬ P.flagNames.Nodup

/-- The byte that is slice `k` of the word at step `st` of a microprogram written out; steps beyond the
listed words are idle (R54, R58). -/
abbrev byteAt (words : List CtrlWord) (st k : Nat) : Byte :=
  BitVec.ofNat 8 (words.getD st 0 >>> (8 * k))

end Sys2Proof.Machine
end

