-- ==== Sys2Proof/Certificates/Slice0/Obligations.lean ====
section
/-! DEFINITION. The statements about the block, from the numbered rules of the spec, file by file. Helper
terms (`Valid`, `Loaded`, `State.Inv`, `byteAt`) are in Safety.lean. -/

open Sys2Proof Sys2Proof.Machine

/-! ## Encoding: the opcode table and the address formats -/

/-- Decoding the address of a well-formed instruction gives the instruction back, every operand at every
value its field admits (R56, R101). -/
def Obligations.DecodeInvertsEncode : Prop :=
  ∀ i : Instr, i.wf = true → decode i.slot.named (encode i) = .ok i

/-- Every address of a named profile is the address of exactly one well-formed instruction of that
profile: it decodes, and the decoded instruction encodes to it (R31, R57, R101). -/
def Obligations.EveryAddressIsOneInstruction : Prop :=
  ∀ (n : NamedProfile) (A : Nat), A < 2 ^ n.profile.W →
    ∃ i : Instr, decode n A = .ok i ∧ i.wf = true ∧ i.slot.named = n ∧ encode i = A ∧
      ∀ j : Instr, j.wf = true → j.slot.named = n → encode j = A → j = i

/-- Words written out bit by bit from the encodings of the opcode table decode to their rows (R49 to R52).
The words of one byte go through the model's choice of their profile, TOY below 16 and MINI above (log
entry 4); that a word with a bit the port has no line for does not decode is log entry 13. -/
def Obligations.TableWordsDecodeToTheirRows : Prop :=
  decodeTableWord 8 0b0010 = some (.toyLoad 0 2) ∧ decodeTableWord 8 0b1110 = some (.toyHalt 1 2) ∧
  decodeTableWord 16 0b01_0010_00010_0011 = some (.refSta 2 3 1) ∧
  decodeTableWord 16 0b10_0001_10001_0010 = some (.refXjn 1 2 2) ∧
  decodeTableWord 24 0b00_00_1000_00011_0100 = some (.ref17Add 8 4 0) ∧
  decodeTableWord 24 0b10_01_0101_00001_0001 = some (.ref17Undef64To95 1 5 1 1) ∧
  decodeTableWord 8 0b11010000 = some (.miniXjz 2 2 0) ∧
  decodeTableWord 8 0b10100011 = some (.miniLda 15 0 0) ∧
  decodeTableWord 16 0x8000 = none ∧ decodeTableWord 24 0x20000 = none

/-- The address formats of the four named profiles (R49 to R52): the fields lie at the address bits the
tables give, for every value of every field. -/
def Obligations.AddressFormatsOfTheNamedProfiles : Prop :=
  (toyProfile.W = 4 ∧ refProfile.W = 15 ∧ ref17Profile.W = 17 ∧ miniProfile.W = 8) ∧
  (∀ f o s, f < 2 → o < 2 → s < 4 →
    compose toyProfile.partition ⟨f, o, s, 0⟩ = (f <<< 3) ||| (o <<< 2) ||| s) ∧
  (∀ f o s k, f < 16 → o < 32 → s < 16 → k < 4 →
    compose refProfile.partition ⟨f, o, s, k⟩ = (k <<< 13) ||| (f <<< 9) ||| (o <<< 4) ||| s) ∧
  (∀ f o s k, f < 16 → o < 128 → s < 16 → k < 4 →
    compose ref17Profile.partition ⟨f, o, s, k⟩ =
      ((o >>> 5) <<< 15) ||| (k <<< 13) ||| (f <<< 9) ||| ((o &&& 31) <<< 4) ||| s) ∧
  (∀ f o s k, f < 16 → o < 2 → s < 4 → k < 2 →
    ∀ b, (compose miniProfile.partition ⟨f, o, s, k⟩).testBit b =
      match b with
      | 0 => f.testBit 0
      | 1 => f.testBit 3
      | 2 => k.testBit 0
      | 3 => s.testBit 0
      | 4 => s.testBit 1
      | 5 => f.testBit 2
      | 6 => o.testBit 0
      | 7 => f.testBit 1
      | _ => false)

/-! ## Address decomposition -/

/-- Decompose and Compose are inverse to each other on every partition that passes PartitionCheck, over
the whole address space and all field values (R101). -/
def Obligations.DecomposeIsABijection : Prop :=
  ∀ P : Profile, partitionCheck P = none →
    (∀ A, A < 2 ^ P.W →
      (decompose P.partition A).flags < 2 ^ P.NF ∧ (decompose P.partition A).opcode < 2 ^ P.NO ∧
      (decompose P.partition A).step < 2 ^ P.NS ∧ (decompose P.partition A).slice < 2 ^ P.NB ∧
      compose P.partition (decompose P.partition A) = A) ∧
    (∀ f o s k, f < 2 ^ P.NF → o < 2 ^ P.NO → s < 2 ^ P.NS → k < 2 ^ P.NB →
      compose P.partition ⟨f, o, s, k⟩ < 2 ^ P.W ∧
      decompose P.partition (compose P.partition ⟨f, o, s, k⟩) = ⟨f, o, s, k⟩)

/-- Every address lands inside the tables: the four components are below their ranges and the word
`E[flags][opcode][step]` exists (R102). -/
def Obligations.EveryAddressLandsInTheTable : Prop :=
  ∀ (P : Profile) (A : Nat), Valid P → A < 2 ^ P.W →
    (decompose P.partition A).flags < 2 ^ P.NF ∧ (decompose P.partition A).opcode < 2 ^ P.NO ∧
    (decompose P.partition A).step < 2 ^ P.NS ∧ (decompose P.partition A).slice < 2 ^ P.NB ∧
    ∃ T m w, (expand P)[(decompose P.partition A).flags]? = some T ∧
      T[(decompose P.partition A).opcode]? = some m ∧ m[(decompose P.partition A).step]? = some w

/-- On contiguous fields Decompose is shifts and masks: any run of adjacent bits, and the four fields of REF
and TOY (R105). -/
def Obligations.ContiguousFieldsAreShiftAndMask : Prop :=
  (∀ A lo n : Nat, field A (List.range' lo n) = (A >>> lo) &&& (2 ^ n - 1)) ∧
  ∀ A : Nat,
    (A < 2 ^ 15 → decompose refProfile.partition A =
      ⟨(A >>> 9) &&& 0xF, (A >>> 4) &&& 0x1F, A &&& 0xF, (A >>> 13) &&& 0x3⟩) ∧
    (A < 2 ^ 4 → decompose toyProfile.partition A = ⟨(A >>> 3) &&& 1, (A >>> 2) &&& 1, A &&& 0x3, 0⟩)

/-- What a partition that passes is: every address bit in exactly one field, no other bit in any, every
declared range covered, and the widths add up to `W` (R99). -/
def Obligations.PartitionCheckPassesExactlyOnPartitions : Prop :=
  ∀ P : Profile,
    (partitionCheck P = none ↔
      (∀ b, (positions P.partition).count b = if b < P.W then 1 else 0) ∧
      P.nopcodesDecl ≤ 2 ^ P.NO ∧ P.nstepsDecl ≤ 2 ^ P.NS ∧ nslices P.Wc ≤ 2 ^ P.NB ∧
      P.NF = P.flagNames.length) ∧
    (partitionCheck P = none → P.W = P.NF + P.NO + P.NS + P.NB)

/-! ## Signal catalog and control words -/

/-- CatalogCheck passes exactly when every bit index is below `Wc` and no two signals of different names
share one, and the error it raises names entries that are wrong, range errors before collisions (R64, R139).
That an entry written twice is no collision is the model's reading of R64 (f) (log entry 6). -/
def Obligations.CatalogCheckNamesAWrongEntry : Prop :=
  ∀ P : Profile,
    (catalogCheck P = none ↔ (∀ e ∈ P.signals, e.2 < P.Wc) ∧
      ∀ e ∈ P.signals, ∀ e' ∈ P.signals, e.1 ≠ e'.1 → e.2 ≠ e'.2) ∧
    (∀ n b, catalogCheck P = some (.outOfRange n b) → (n, b) ∈ P.signals ∧ P.Wc ≤ b) ∧
    (∀ n n' b, catalogCheck P = some (.collision n n' b) →
      (n, b) ∈ P.signals ∧ (n', b) ∈ P.signals ∧ n ≠ n' ∧ ∀ e ∈ P.signals, e.2 < P.Wc)

/-- `sig(n)` is the word with the signal's own bit and fits the width; a name outside the catalog has
none, and a profile that uses one is refused (R65). -/
def Obligations.SigIsTheSignalsOwnBit : Prop :=
  ∀ P : Profile, Valid P →
    (∀ n b, (n, b) ∈ P.signals → P.sig? n = some (1 <<< b) ∧ 1 <<< b < 2 ^ P.Wc) ∧
    (∀ n, (∀ b, (n, b) ∉ P.signals) → P.sig? n = none ∧
      ∀ ns, WordSpec.names ns ∈ profileWords P → n ∉ ns)

/-- A word made of names asserts exactly the lines of those names, and reading it back gives those names
(R66, R69). -/
def Obligations.WordAssertsExactlyItsNames : Prop :=
  ∀ (P : Profile) (ns : List String), Valid P → (∀ n ∈ ns, ∃ b, (n, b) ∈ P.signals) →
    (∀ b, (P.word (.names ns)).testBit b = true ↔ ∃ n ∈ ns, (n, b) ∈ P.signals) ∧
    (∀ n, n ∈ P.names (P.word (.names ns)) ↔ n ∈ ns)

/-- Every control word of both tables fits the width, and a bit that no word of the profile has is 0 in
every one of them (R67). -/
def Obligations.TableWordsHaveOnlyTheProfilesBits : Prop :=
  ∀ P : Profile, Valid P →
    (∀ m ∈ baseTable P, ∀ w ∈ m, w < 2 ^ P.Wc) ∧
    (∀ T ∈ expand P, ∀ m ∈ T, ∀ w ∈ m, w < 2 ^ P.Wc) ∧
    ∀ b, (∀ w ∈ profileWords P, (P.word w).testBit b = false) →
      (∀ m ∈ baseTable P, ∀ w ∈ m, w.testBit b = false) ∧
      (∀ T ∈ expand P, ∀ m ∈ T, ∀ w ∈ m, w.testBit b = false)

/-! ## Byte serializer -/

/-- The byte slices of a word put together are the word, for any width, and further slices add nothing
(R110). -/
def Obligations.ByteRoundTrip : Prop :=
  ∀ (Wc : Nat) (w : CtrlWord) (n : Nat), w < 2 ^ Wc → nslices Wc ≤ n →
    ((List.range n).map fun i => (slice Wc w i).toNat <<< (8 * i)).sum = w

/-- The two clauses of Slice agree: an index is out of range exactly when its bits lie above the word,
and there the formula already gives 0 (R108, R109). -/
def Obligations.SliceClausesAgree : Prop :=
  ∀ (Wc k : Nat) (w : CtrlWord),
    (nslices Wc ≤ k ↔ Wc ≤ k * 8) ∧ (nslices Wc ≤ k → slice Wc w k = 0) ∧
    (w < 2 ^ Wc → nslices Wc ≤ k → w >>> (k * 8) = 0) ∧
    (w < 2 ^ Wc → (slice Wc w k).toNat = (w >>> (k * 8)) % 256)

/-- The bit-packer end to end: a signal of a word with catalog bit `b` is bit `b mod 8` of slice
`floor(b / 8)` and nowhere else (R111). -/
def Obligations.SignalsReachTheirOwnCellBit : Prop :=
  ∀ (P : Profile) (ns : List String) (k j : Nat), Valid P → (∀ n ∈ ns, ∃ b, (n, b) ∈ P.signals) →
    j < 8 → ((slice P.Wc (P.word (.names ns)) k).getLsbD j = true ↔
      ∃ n ∈ ns, ∃ b, (n, b) ∈ P.signals ∧ k = b / 8 ∧ j = b % 8)

/-! ## The opcode microprogram table -/

/-- Every slot of the base table is a microprogram of `2^NS` words: the two fetch words, the body, and
idle words (R70, R86). -/
def Obligations.BaseTableRows : Prop :=
  ∀ P : Profile, Valid P → (baseTable P).length = 2 ^ P.NO ∧
    ∀ o, o < 2 ^ P.NO → ∃ m, (baseTable P)[o]? = some m ∧ m.length = 2 ^ P.NS ∧
      m[0]? = some (P.word P.fetch0) ∧ m[1]? = some (P.word P.fetch1) ∧
      (∀ j, j < (bodyAt P o).length → m[2 + j]? = (bodyAt P o)[j]?) ∧
      (∀ s, 2 + (bodyAt P o).length ≤ s → s < 2 ^ P.NS → m[s]? = some 0) ∧
      ∀ w ∈ m, w < 2 ^ P.Wc

/-- An undefined opcode that is not in `ext_slots` and that no edit names is fetch only in every flag
combination (R57, R74, R143). -/
def Obligations.UndefinedOpcodeIsFetchOnly : Prop :=
  ∀ (P : Profile) (f o s : Nat), Valid P → f < 2 ^ P.NF → o < 2 ^ P.NO → s < 2 ^ P.NS →
    slotAt P o = none → o ∉ P.extSlots → (∀ e ∈ P.edits, e.opcode ≠ o) →
    lookup (expand P) f o s =
      if s = 0 then P.word P.fetch0 else if s = 1 then P.word P.fetch1 else 0

/-! ## The flag-variant expander -/

/-- Steps 0 and 1 of every microprogram of every flag combination are the fetch words (R94). -/
def Obligations.CommonFetchWords : Prop :=
  ∀ (P : Profile) (f o : Nat), Valid P → f < 2 ^ P.NF → o < 2 ^ P.NO →
    lookup (expand P) f o 0 = P.word P.fetch0 ∧ lookup (expand P) f o 1 = P.word P.fetch1

/-- An edit changes one word of the combinations it matches and nothing of any other combination, opcode
or step (R89, R95). -/
def Obligations.FlagEditChangesOneWord : Prop :=
  ∀ (P : Profile) (E : ExpandedTable) (e : FlagEdit) (g : Nat),
    (editHits e g = false → (applyEdit P E e)[g]? = E[g]?) ∧
    (editHits e g = true → ∀ T m, E[g]? = some T → T[e.opcode]? = some m → e.step < m.length →
      lookup (applyEdit P E e) g e.opcode e.step = P.word e.word) ∧
    ∀ o s, (o ≠ e.opcode ∨ s ≠ e.step) → lookup (applyEdit P E e) g o s = lookup E g o s

/-- The word at a place after all the edits is that of the last edit in the list that matches there, and
the base table's where none does (R87, R89). -/
def Obligations.TheLastMatchingEditWins : Prop :=
  ∀ (P : Profile) (f o s : Nat), Valid P → f < 2 ^ P.NF → o < 2 ^ P.NO → s < 2 ^ P.NS →
    lookup (applyEdits P (replicateTable P (baseTable P))) f o s =
      (((P.edits.filter fun e => editHits e f && e.opcode == o && e.step == s).getLast?).map
        fun e => P.word e.word).getD ((micro P o).getD s 0)

/-- The terminal step is the last non-idle step after the fetch words, or step 2 (R91). -/
def Obligations.TerminalIsTheLastNonIdleStep : Prop :=
  ∀ m : Microprogram, 2 ≤ terminal m ∧ (∀ s, terminal m < s → m.getD s 0 = 0) ∧
    (terminal m ≠ 2 → m.getD (terminal m) 0 ≠ 0)

/-- Clear-extend is ORed into the terminal step of every extended-page slot, per combination and after
the edits, and into nothing else (R92). -/
def Obligations.ClearExtendAtTheTerminalStepOnly : Prop :=
  ∀ (P : Profile) (f o s : Nat), Valid P → f < 2 ^ P.NF → o < 2 ^ P.NO → s < 2 ^ P.NS →
    ∀ E1, E1 = applyEdits P (replicateTable P (baseTable P)) →
    lookup (expand P) f o s =
      if isExt P o = true ∧ s = terminal ((E1.getD f []).getD o [])
      then lookup E1 f o s ||| clearExtendWord P else lookup E1 f o s

/-- Without edits all combinations are equal; an opcode no edit names is the same in all of them; and a
flag bit no edit's mask has changes nothing (R96). -/
def Obligations.FlagIndependence : Prop :=
  ∀ (P : Profile) (f : Nat), f < 2 ^ P.NF →
    (P.edits = [] → (expand P)[f]? = (expand P)[0]?) ∧
    (∀ o, (∀ e ∈ P.edits, e.opcode ≠ o) →
      ((expand P).getD f [])[o]? = ((expand P).getD 0 [])[o]?) ∧
    (∀ j, j < P.NF → (∀ e ∈ P.edits, e.mask.testBit j = false) →
      (expand P)[f]? = (expand P)[f ^^^ (1 <<< j)]?)

/-! ## The image, the split, the read port and the bank -/

/-- The two halves of a split image: equal lengths, order kept, one after the other the image (R119). -/
def Obligations.SplitHalvesConcatenate : Prop :=
  ∀ (P : Profile) (image lo hi : List Byte), Valid P → splits P = true → image.length = 2 ^ P.W →
    splitImage P image = (lo, hi) →
    lo ++ hi = image ∧ lo.length = 2 ^ (P.W - 1) ∧ hi.length = 2 ^ (P.W - 1) ∧
    ∀ i, i < 2 ^ (P.W - 1) → lo[i]? = image[i]? ∧ hi[i]? = image[2 ^ (P.W - 1) + i]?

/-- A ROM programmed with any image of the right length answers, at every address, the byte of the image,
through the right chip of a split build; and what is handed over is the image or its two halves (R29, R118,
R120). It is in the canonical form, which is the model's own (log entry 3). -/
def Obligations.RomAnswersWhatWasProgrammed : Prop :=
  ∀ (P : Profile) (image : List Byte), Valid P → image.length = 2 ^ P.W →
    (Rom.program P image).wf P ∧
    (∀ A, A < 2 ^ P.W → (Rom.program P image).read P A = image.getD A 0) ∧
    (Rom.program P image).sequences P =
      if splits P then [(splitImage P image).1, (splitImage P image).2] else [image]

/-- The read port: `D = image[A]`, and for a split build the byte of the chip the top address bit selects
(R120). -/
def Obligations.ReadPortAnswersTheImage : Prop :=
  ∀ (P : Profile) (s : State) (A : Nat), Valid P → Loaded P s → A < 2 ^ P.W →
    s.readAt A = .next (s.answered A ((build P).getD A 0)) ∧
    (splits P = true → s.readAt A = .next (s.answered A
      (if A.testBit (P.W - 1) then (splitImage P (build P)).2.getD (A % 2 ^ (P.W - 1)) 0
       else (splitImage P (build P)).1.getD (A % 2 ^ (P.W - 1)) 0)))

/-- The chips of a bank side by side deliver the control word of the expanded table, for every flag
combination, opcode and step (R121). -/
def Obligations.BankDeliversTheControlWord : Prop :=
  ∀ (P : Profile) (f o st : Nat), Valid P → f < 2 ^ P.NF → o < 2 ^ P.NO → st < 2 ^ P.NS →
    (Rom.ofProfile P).bank P f o st = lookup (expand P) f o st

/-! ## The build -/

/-- A build of a valid profile runs to its end and leaves the ROM with the image of the closed form, every
other piece of the build gone, and on the output the byte at the address on the lines (R30, R113, R117,
R155). That it takes `2^W + 6` steps is the model's grain (log entry 10), and that the lines carry 0 its
choice (log entry 7). -/
def Obligations.BuildEndsWithTheRom : Prop :=
  ∀ P : Profile, Valid P →
    Host.Core.run core (2 ^ P.W + 6) (State.start P) =
      .next { State.start P with
        stage := .reading
        addr := 2 ^ P.W
        rom := some (Rom.ofProfile P)
        dataOut := some (imageByte P 0) }

/-- A profile that fails a check ends in the error of the first check that fails, in the order
CatalogCheck, PartitionCheck, ShapeCheck, with nothing built, and the machine then only reports that error
(R141, R146, R147; the fault is the model's form of the report, log entry 10). -/
def Obligations.FirstFailingCheckEndsTheBuild : Prop :=
  ∀ (P : Profile) (e : BuildError),
    ((∃ r, catalogCheck P = some r ∧ e = .signalCollisionError r) ∨
     (∃ r, catalogCheck P = none ∧ partitionCheck P = some r ∧ e = .addressPartitionError r) ∨
     (∃ r, catalogCheck P = none ∧ partitionCheck P = none ∧ shapeCheck P = some r ∧
        e = .profileRefused r)) →
    ∃ k, k ≤ 3 ∧
      Host.Core.run core k (State.start P) = .next { State.start P with stage := .failed e } ∧
      step { State.start P with stage := .failed e } = .fault (.buildError e)

/-- Every step keeps the invariant of the machine. -/
def Obligations.StepKeepsTheInvariant : Prop :=
  ∀ s t : State, s.Inv → step s = .next t → t.Inv

/-- The start of every build meets the invariant, and the state after reset is the start of a build:
nothing checked, no table, `addr = 0`, an empty image, no ROM, no output, no error (R30, R154). The profile
of the reset state and the 0 on the address lines are the model's choice (log entries 1, 7). -/
def Obligations.ResetIsTheStartOfABuild : Prop :=
  (∀ P : Profile, (State.start P).Inv) ∧ State.reset.Inv ∧ NothingBuilt State.reset ∧
  State.reset.stage = .checkCatalog ∧ State.reset.profile = toyProfile

/-- The profiles the spec names pass all three checks (R20, R122 to R133). -/
def Obligations.NamedProfilesAreValid : Prop := ∀ n : NamedProfile, Valid n.profile

/-- Nine ill-formed profiles, examples of R64, R99, R142 and of the test vectors, end in the errors given
there. -/
def Obligations.IllFormedProfilesAreRefused : Prop :=
  buildError { toyProfile with signals := [("MAI", 0), ("IRO", 0)] } =
    some (.signalCollisionError (.collision "MAI" "IRO" 0)) ∧
  buildError { toyProfile with signals := [("MAI", 0), ("HLT", 8)] } =
    some (.signalCollisionError (.outOfRange "HLT" 8)) ∧
  buildError { toyProfile with W := 5 } = some (.addressPartitionError .bitDropped) ∧
  buildError { toyProfile with partition := ⟨[3], [2], [1, 2], []⟩ } =
    some (.addressPartitionError .bitShared) ∧
  buildError { refProfile with wordWidth := 40 } = some (.addressPartitionError .sliceTooNarrow) ∧
  buildError { refProfile with xc := none } = some (.profileRefused .missingXc) ∧
  buildError { refProfile with fetch0 := .value 0x40000 } = some (.profileRefused .wordTooWide) ∧
  buildError { refProfile with edits := [⟨0, 0, 5, 1, .value 1⟩] } =
    some (.profileRefused .editInFetch) ∧
  buildError { miniProfile with split := .point 64 } = some (.profileRefused .splitPoint)

/-! ## Step, exec and what they leave alone -/

/-- A step of the loaded ROM of a named profile runs the instruction the address lines decode to: `step`
is `exec` of it on the same state (nothing is added around it; there is no program counter). -/
def Obligations.StepRunsTheDecodedInstruction : Prop :=
  ∀ (s : State) (n : NamedProfile) (i : Instr), s.stage = .reading → s.profile = n.profile →
    decode n s.addressLines = .ok i → step s = exec i s

/-- Every read step answers the byte the ROM holds at the address on the lines, for every profile, named
or open, and whatever the ROM holds (R120, R148). -/
def Obligations.StepReadsTheAddressOnTheLines : Prop :=
  ∀ (s : State) (r : Rom), s.stage = .reading → s.rom = some r →
    s.addressLines < 2 ^ s.profile.W →
    step s = .next (s.answered s.addressLines (r.read s.profile s.addressLines))

/-- Every well-formed instruction completes wherever a ROM of its profile exists: its own address is on
the lines, the output is the byte the ROM holds there, and nothing else is changed. -/
def Obligations.EveryInstructionCompletes : Prop :=
  ∀ (i : Instr) (s : State) (r : Rom), i.wf = true → s.profile = i.slot.named.profile →
    s.rom = some r →
    exec i s = .next (s.answered (encode i) (r.read s.profile (encode i)))

/-- On the loaded ROM of its profile every instruction answers slice `k` of the expanded table's word at
its flags, opcode and step (R112, R117). -/
def Obligations.EveryInstructionAnswersItsExpandedWord : Prop :=
  ∀ (i : Instr) (s : State), i.wf = true → Loaded i.slot.named.profile s →
    exec i s = .next (s.answered (encode i)
      (slice s.profile.Wc
        (lookup (expand s.profile) i.slot.fields.flags i.slot.fields.opcode i.slot.fields.step)
        i.slot.fields.slice))

/-- The frame of every instruction: whatever it is given, an instruction that answers a next state changes
the address lines and the output and nothing else; it stores to no cell, so every byte of the ROM and
every word of the bank reads as before (R38, R40). What it answers on the ROM of another profile than its
own is the model's choice (log entry 11). -/
def Obligations.InstructionsChangeOnlyTheReadPort : Prop :=
  ∀ (i : Instr) (s t : State), exec i s = .next t →
    (t.profile = s.profile ∧ t.stage = s.stage ∧ t.base = s.base ∧ t.expanded = s.expanded ∧
      t.addr = s.addr ∧ t.image = s.image) ∧
    t.addressLines = encode i ∧
    ∃ r r', s.rom = some r ∧ t.rom = some r' ∧
      (∀ A, r'.read t.profile A = r.read s.profile A) ∧
      (∀ f o st, r'.bank t.profile f o st = r.bank s.profile f o st) ∧
      t.dataOut = some (r.read s.profile (encode i))

/-- Once the build is over no step changes the ROM, the profile or the stage: no write happens after the
build (R23, R40, R41, R43). That a step leaves the address on the lines follows from what drives them being
outside the block (R14, R27; log entry 19). -/
def Obligations.TheRomIsImmutable : Prop :=
  ∀ s t : State, s.stage = .reading → step s = .next t →
    t.rom = s.rom ∧ t.profile = s.profile ∧ t.stage = .reading ∧
      t.addressLines = s.addressLines

/-- Without a completed build there is no read port: every instruction stops there by name (R44). -/
def Obligations.NoReadPortBeforeTheBuildEnds : Prop :=
  ∀ (i : Instr) (s : State), s.rom = none → exec i s = .fault .noRom

/-- The read port raises nothing and the builder never gets stuck: from every state of the invariant
whose build has not failed there is a next state (R138, R148). That a check that raises answers a next
state, and the fault comes in the step after it, is the model's grain (log entry 10). -/
def Obligations.OnlyAFailedBuildStops : Prop :=
  ∀ s : State, s.Inv → (∀ e, s.stage ≠ .failed e) → ∃ t, step s = .next t

/-- No instruction and no step is ever refused. -/
def Obligations.NothingIsRefused : Prop :=
  ∀ (s : State) (r : Refusal), step s ≠ .refused r ∧ ∀ i : Instr, exec i s ≠ .refused r

/-! ## The named profiles -/

/-- TOY's address width, partition and image (R124). -/
def Obligations.ToyImage : Prop :=
  toyProfile.W = 4 ∧ toyProfile.partition = ⟨[3], [2], [0, 1], []⟩ ∧
  build toyProfile = [0x11, 0xE0, 0x03, 0x04, 0x11, 0xE0, 0x08, 0x00,
    0x11, 0xE0, 0x03, 0x04, 0x11, 0xE0, 0x08, 0x00]

/-- The image of MINI by address bits: Z is bit 7, the opcode bit 6, the step bits 4 and 3, the slice bit
2, and the other two never matter (R132, R133). -/
def Obligations.MiniImage : Prop :=
  ∀ A, A < 256 → imageByte miniProfile A =
    byteAt (if A.testBit 6 then [0x003, 0x01C, if A.testBit 7 then 0x460 else 0x400, 0x000]
      else [0x003, 0x01C, 0x022, 0x084]) ((A >>> 3) % 4) ((A >>> 2) % 2)

/-- What the expander makes of REF: the words that differ from the base table, and every other word equal
to it (R128). -/
def Obligations.RefExpandedTable : Prop :=
  refProfile.edits.map (fun e => (e.mask, e.value, e.opcode, e.step, refProfile.word e.word)) =
    [(2, 2, 6, 2, 0x60), (1, 1, 7, 2, 0x60), (4, 4, 17, 2, 0x60), (8, 8, 18, 2, 0x60)] ∧
  ∀ f o s, f < 16 → o < 32 → s < 16 →
    lookup (expand refProfile) f o s =
      if s = 2 ∧ o = 6 ∧ f.testBit 1 = true then 0x60
      else if s = 2 ∧ o = 7 ∧ f.testBit 0 = true then 0x60
      else if s = 2 ∧ o = 17 then (if f.testBit 2 then 0x20060 else 0x20000)
      else if s = 2 ∧ o = 18 then (if f.testBit 3 then 0x20060 else 0x20000)
      else if s = 2 ∧ 16 ≤ o then 0x20000
      else ((baseTable refProfile).getD o []).getD s 0

/-- The image of REF17: REF's below `0x8000`, and in each upper quarter the fetch bytes at steps 0 and 1 of
slice 0 and zeros elsewhere (R130). -/
def Obligations.Ref17ExtendsRef : Prop :=
  (∀ A, A < 0x8000 → imageByte ref17Profile A = imageByte refProfile A) ∧
  ∀ A, 0x8000 ≤ A → A < 0x20000 → imageByte ref17Profile A =
    if (A >>> 13) % 4 = 0 ∧ A % 16 = 0 then 0x03
    else if (A >>> 13) % 4 = 0 ∧ A % 16 = 1 then 0x1C else 0

/-! ## The opcodes: what each answers on the loaded ROM of its profile -/

/-- LDA (R77): `IRO|MAI` at step 2 and `RMO|ACI` at step 3, in REF, REF17 and MINI; STA (R78): `IRO|MAI`
and then `ACO|RMI`, in REF and REF17; under every flag combination. -/
def Obligations.LoadAndStoreWords : Prop :=
  (∀ c ∈ [(NamedProfile.ref, Instr.refLda), (.ref17, .ref17Lda)],
    ∀ (s : State) (f st k : Nat), f < 16 → st < 16 → k < 4 → Loaded c.1.profile s →
      exec (c.2 f st k) s = .next (s.answered (encode (c.2 f st k))
        (byteAt [0x00003, 0x0001C, 0x00022, 0x00084] st k))) ∧
  (∀ (s : State) (f st k : Nat), f < 16 → st < 4 → k < 2 → Loaded miniProfile s →
      exec (.miniLda f st k) s = .next (s.answered (encode (.miniLda f st k))
        (byteAt [0x003, 0x01C, 0x022, 0x084] st k))) ∧
  (∀ c ∈ [(NamedProfile.ref, Instr.refSta), (.ref17, .ref17Sta)],
    ∀ (s : State) (f st k : Nat), f < 16 → st < 16 → k < 4 → Loaded c.1.profile s →
      exec (c.2 f st k) s = .next (s.answered (encode (c.2 f st k))
        (byteAt [0x00003, 0x0001C, 0x00022, 0x00300] st k)))

/-- ADD (R79): `IRO|MAI`, `RMO|BRI`, `SMO|ACI|FLI`; SUB (R80): the same with SBM beside them at step 4. -/
def Obligations.AddAndSubWords : Prop :=
  (∀ c ∈ [(NamedProfile.ref, Instr.refAdd), (.ref17, .ref17Add)],
    ∀ (s : State) (f st k : Nat), f < 16 → st < 16 → k < 4 → Loaded c.1.profile s →
      exec (c.2 f st k) s = .next (s.answered (encode (c.2 f st k))
        (byteAt [0x00003, 0x0001C, 0x00022, 0x00404, 0x01880] st k))) ∧
  (∀ c ∈ [(NamedProfile.ref, Instr.refSub), (.ref17, .ref17Sub)],
    ∀ (s : State) (f st k : Nat), f < 16 → st < 16 → k < 4 → Loaded c.1.profile s →
      exec (c.2 f st k) s = .next (s.answered (encode (c.2 f st k))
        (byteAt [0x00003, 0x0001C, 0x00022, 0x00404, 0x03880] st k)))

/-- JMP (R76): `IRO|PCI`; OUT (R81): `ACO|ORI`; HLT (R82): the halt bit; EXT (R83): EXS and never EXC;
each at step 2, under every flag combination. -/
def Obligations.JumpOutHaltExtendWords : Prop :=
  ∀ c ∈ [(NamedProfile.ref, Instr.refJmp, 0x00060), (.ref17, .ref17Jmp, 0x00060),
      (.ref, .refOut, 0x04100), (.ref17, .ref17Out, 0x04100),
      (.ref, .refHlt, 0x08000), (.ref17, .ref17Hlt, 0x08000),
      (.ref, .refExt, 0x10000), (.ref17, .ref17Ext, 0x10000)],
    ∀ (s : State) (f st k : Nat), f < 16 → st < 16 → k < 4 → Loaded c.1.profile s →
      exec (c.2.1 f st k) s = .next (s.answered (encode (c.2.1 f st k))
        (byteAt [0x00003, 0x0001C, c.2.2] st k))

/-- NOP (R75) and the undefined opcodes 9 to 13 (R74): the fetch words and idle words, under every flag
combination; no error. -/
def Obligations.NopAndUndefinedWords : Prop :=
  ∀ c ∈ [(NamedProfile.ref, Instr.refNop), (.ref17, .ref17Nop), (.ref, .refUndef9),
      (.ref, .refUndef10), (.ref, .refUndef11), (.ref, .refUndef12), (.ref, .refUndef13),
      (.ref17, .ref17Undef9), (.ref17, .ref17Undef10), (.ref17, .ref17Undef11),
      (.ref17, .ref17Undef12), (.ref17, .ref17Undef13)],
    ∀ (s : State) (f st k : Nat), f < 16 → st < 16 → k < 4 → Loaded c.1.profile s →
      exec (c.2 f st k) s = .next (s.answered (encode (c.2 f st k))
        (byteAt [0x00003, 0x0001C] st k))

/-- JZ (R134) and JC (R135): `IRO|PCI` at step 2 when the tested flag is set, fetch only when it is
clear; the other flags do not matter. -/
def Obligations.ConditionalJumpWords : Prop :=
  ∀ c ∈ [(NamedProfile.ref, Instr.refJz, 1), (.ref17, .ref17Jz, 1), (.ref, .refJc, 0),
      (.ref17, .ref17Jc, 0)],
    ∀ (s : State) (f st k : Nat), f < 16 → st < 16 → k < 4 → Loaded c.1.profile s →
      exec (c.2.1 f st k) s = .next (s.answered (encode (c.2.1 f st k))
        (byteAt [0x00003, 0x0001C, if f.testBit c.2.2 then 0x00060 else 0] st k))

/-- XJN (R136) and XJV (R137): EXC at step 2, and `IRO|PCI` beside it when the tested flag is set. -/
def Obligations.ExtendedConditionalJumpWords : Prop :=
  ∀ c ∈ [(NamedProfile.ref, Instr.refXjn, 2), (.ref17, .ref17Xjn, 2), (.ref, .refXjv, 3),
      (.ref17, .ref17Xjv, 3)],
    ∀ (s : State) (f st k : Nat), f < 16 → st < 16 → k < 4 → Loaded c.1.profile s →
      exec (c.2.1 f st k) s = .next (s.answered (encode (c.2.1 f st k))
        (byteAt [0x00003, 0x0001C, if f.testBit c.2.2 then 0x20060 else 0x20000] st k))

/-- The undefined slots of the extended page of REF and REF17, 16 and 19 to 31: EXC at step 2 and nothing
more (R84). -/
def Obligations.UndefinedExtendedSlotWords : Prop :=
  (∀ c ∈ [Instr.refXUndef16, .refXUndef19, .refXUndef20, .refXUndef21, .refXUndef22, .refXUndef23,
      .refXUndef24, .refXUndef25, .refXUndef26, .refXUndef27, .refXUndef28, .refXUndef29,
      .refXUndef30, .refXUndef31],
    ∀ (s : State) (f st k : Nat), f < 16 → st < 16 → k < 4 → Loaded refProfile s →
      exec (c f st k) s = .next (s.answered (encode (c f st k))
        (byteAt [0x00003, 0x0001C, 0x20000] st k))) ∧
  (∀ c ∈ [Instr.ref17XUndef16, .ref17XUndef19, .ref17XUndef20, .ref17XUndef21, .ref17XUndef22,
      .ref17XUndef23, .ref17XUndef24, .ref17XUndef25, .ref17XUndef26, .ref17XUndef27,
      .ref17XUndef28, .ref17XUndef29, .ref17XUndef30, .ref17XUndef31],
    ∀ (s : State) (f st k : Nat), f < 16 → st < 16 → k < 4 → Loaded ref17Profile s →
      exec (c f st k) s = .next (s.answered (encode (c f st k))
        (byteAt [0x00003, 0x0001C, 0x20000] st k)))

/-- The opcodes 32 to 127 of REF17, the values of the leftover address bits: undefined, fetch only, not of
the extended page, whatever their low five bits (R60, R130). -/
def Obligations.LeftoverOpcodeWords : Prop :=
  ∀ c ∈ [Instr.ref17Undef32To63, .ref17Undef64To95, .ref17Undef96To127],
    ∀ (s : State) (low f st k : Nat), low < 32 → f < 16 → st < 16 → k < 4 → Loaded ref17Profile s →
      exec (c low f st k) s = .next (s.answered (encode (c low f st k))
        (byteAt [0x00003, 0x0001C] st k))

/-- TOY's LOAD and HALT under both values of the flag (R123). -/
def Obligations.ToyOpcodeWords : Prop :=
  ∀ (s : State) (f st : Nat), f < 2 → st < 4 → Loaded toyProfile s →
    exec (.toyLoad f st) s = .next (s.answered (encode (.toyLoad f st))
      (byteAt [0x11, 0xE0, 0x03, 0x04] st 0)) ∧
    exec (.toyHalt f st) s = .next (s.answered (encode (.toyHalt f st))
      (byteAt [0x11, 0xE0, 0x08, 0x00] st 0))

/-- MINI's XJZ: EXC at step 2, and `IRO|PCI` beside it when Z is set (R132). -/
def Obligations.MiniConditionalJumpWords : Prop :=
  ∀ (s : State) (f st k : Nat), f < 16 → st < 4 → k < 2 → Loaded miniProfile s →
    exec (.miniXjz f st k) s = .next (s.answered (encode (.miniXjz f st k))
      (byteAt [0x003, 0x01C, if f.testBit 1 then 0x460 else 0x400, 0x000] st k))

/-! ## The whole of ShapeCheck, valid profiles, and the output as a function of the address -/

/-- ShapeCheck passes exactly when no condition of R142's table holds, and the reason it gives is the first
in the order of the table whose condition holds (R142). That `body_too_long` is about the slots of `ops`
only is the model's reading (log entry 21), and of V93's profile the order gives another reason than the
vector (log entry 9). -/
def Obligations.ShapeCheckGivesTheFirstCondition : Prop :=
  ∀ P : Profile,
    (shapeCheck P = none ↔ ∀ r, ¬ ShapeCondition P r) ∧
    ∀ r, shapeCheck P = some r ↔
      ShapeCondition P r ∧ ∀ r' ∈ shapeReasons.takeWhile (fun r' => r' != r), ¬ ShapeCondition P r'

/-- The integers of a valid profile are in the ranges R19 gives them: `Wc`, `nopcodes_decl` and `W`
positive and `nsteps_decl` at least 2, though R142's table lets a profile be written with `W = 0` or
`nsteps_decl < 2` (log entry 17). -/
def Obligations.ValidProfilesHaveTheirIntegers : Prop :=
  ∀ P : Profile, Valid P → 0 < P.Wc ∧ 0 < P.nopcodesDecl ∧ 0 < P.W ∧ 2 ≤ P.nstepsDecl

/-- A value put on the address lines keeps the invariant and changes nothing but the lines and the output,
and once the ROM exists the output is the byte of the image at that address at once, with no step between
(R26, R30, R120). A value of `2^W` or more cannot be presented (R31, D30); that driving one puts its `W` low
bits on the lines is the model's reading (log entry 13). -/
def Obligations.DrivingTheLinesKeepsTheInvariant : Prop :=
  ∀ (s : State) (A : Nat), s.Inv →
    (s.drive A).Inv ∧ (s.drive A).addressLines = A % 2 ^ s.profile.W ∧
    ((s.drive A).profile = s.profile ∧ (s.drive A).stage = s.stage ∧ (s.drive A).base = s.base ∧
      (s.drive A).expanded = s.expanded ∧ (s.drive A).addr = s.addr ∧ (s.drive A).image = s.image ∧
      (s.drive A).rom = s.rom) ∧
    (s.stage = .reading →
      (s.drive A).dataOut = some (imageByte s.profile (A % 2 ^ s.profile.W))) ∧
    (s.stage ≠ .reading → (s.drive A).dataOut = none)

/-- A read changes nothing: with the ROM there and its byte already on the output, a step answers the same
state, and so does every further one (R38, R40). -/
def Obligations.ReadingChangesNothing : Prop :=
  ∀ (s : State) (k : Nat), s.Inv → s.stage = .reading →
    step s = .next s ∧ Host.Core.run core k s = .next s
end

