-- ==== Sys2Proof/Laws/Address.lean ====
section
/-! SUPPORT. Address decomposition: the bits of `field` and `scatter`, their bounds, how they split over
an append, and that one is the inverse of the other on a list of distinct positions. -/

namespace Sys2Proof.Machine

theorem bitAt_lt_two (v i : Nat) : bitAt v i < 2 := by
  unfold bitAt
  cases v.testBit i <;> decide

theorem field_lt (A : Nat) (bits : List Nat) : field A bits < 2 ^ bits.length := by
  induction bits with
  | nil => simp [field]
  | cons b bs ih =>
    have := bitAt_lt_two A b
    simp only [field, List.length_cons, Nat.pow_succ]
    omega

theorem field_append (A : Nat) (xs ys : List Nat) :
    field A (xs ++ ys) = field A xs + 2 ^ xs.length * field A ys := by
  induction xs with
  | nil => simp [field]
  | cons x xs ih =>
    simp only [List.cons_append, field, ih, List.length_cons, Nat.pow_succ]
    ring

theorem scatter_append (v : Nat) (xs ys : List Nat) :
    scatter v (xs ++ ys) = scatter v xs + scatter (v / 2 ^ xs.length) ys := by
  induction xs generalizing v with
  | nil => simp [scatter]
  | cons x xs ih =>
    simp only [List.cons_append, scatter, ih, List.length_cons]
    rw [Nat.div_div_eq_div_mul, Nat.pow_succ', Nat.add_assoc]

/-- Only the low bits of a value are scattered. -/
theorem scatter_mod (v : Nat) (xs : List Nat) : scatter (v % 2 ^ xs.length) xs = scatter v xs := by
  induction xs generalizing v with
  | nil => rfl
  | cons x xs ih =>
    have h0 : bitAt (v % 2 ^ (xs.length + 1)) 0 = bitAt v 0 := by
      simp [bitAt]
    have h1 : v % 2 ^ (xs.length + 1) / 2 = v / 2 % 2 ^ xs.length := by
      rw [Nat.pow_succ', Nat.mod_mul_right_div_self]
    simp only [scatter, List.length_cons, h0, h1, ih]

/-- Bit `j` of a field is the address bit at its position `j` (R97). -/
theorem testBit_field (A : Nat) (bits : List Nat) (j : Nat) :
    (field A bits).testBit j = ((bits[j]?).map A.testBit).getD false := by
  induction bits generalizing j with
  | nil => simp [field]
  | cons b bs ih =>
    have hb := bitAt_lt_two A b
    cases j with
    | zero =>
      simp only [field, Nat.testBit_zero, List.getElem?_cons_zero, Option.map_some, Option.getD_some]
      rw [Nat.add_mul_mod_self_left, Nat.mod_eq_of_lt hb]
      unfold bitAt
      cases A.testBit b <;> simp
    | succ j =>
      rw [Nat.testBit_succ, List.getElem?_cons_succ, ← ih]
      congr 1
      simp only [field]
      omega

/-- A sum of two numbers without a common bit is their bitwise OR. -/
theorem add_eq_or_of_disjoint (x y : Nat) (h : ∀ b, x.testBit b = true → y.testBit b = false) :
    x + y = x ||| y := by
  induction x using Nat.strongRecOn generalizing y with
  | _ x ih =>
    by_cases hx : x = 0
    · simp [hx]
    have hd : x / 2 + y / 2 = x / 2 ||| y / 2 :=
      ih (x / 2) (by omega) (y / 2) fun b hb => by
        rw [← Nat.testBit_succ] at hb ⊢
        exact h (b + 1) hb
    have h0 := h 0
    simp only [Nat.testBit_zero, decide_eq_true_eq, decide_eq_false_iff_not] at h0
    have hor2 : (x ||| y) / 2 = x / 2 ||| y / 2 := Nat.or_div_two
    have hm : (x ||| y) % 2 = 1 ↔ x % 2 = 1 ∨ y % 2 = 1 := by
      have := Nat.testBit_or x y 0
      simp only [Nat.testBit_zero] at this
      rw [← Bool.decide_or, decide_eq_decide] at this
      exact this
    omega

/-- A sum of two numbers without a common bit has the bits of both. -/
theorem testBit_add_of_disjoint {x y : Nat} (h : ∀ b, x.testBit b = true → y.testBit b = false)
    (b : Nat) : (x + y).testBit b = (x.testBit b || y.testBit b) := by
  rw [add_eq_or_of_disjoint x y h, Nat.testBit_or]

/-- The bits of a scattered value: bit `b` is set when `b` is the position of a set bit (R100). -/
theorem testBit_scatter (v : Nat) {bits : List Nat} (h : bits.Nodup) (b : Nat) :
    (scatter v bits).testBit b = true ↔ ∃ j, bits[j]? = some b ∧ v.testBit j = true := by
  induction bits generalizing v b with
  | nil => simp [scatter]
  | cons x xs ih =>
    obtain ⟨hx, hxs⟩ := List.nodup_cons.mp h
    have ihAt := fun c => ih (v / 2) hxs c
    have hbit : ∀ c, (bitAt v 0 <<< x).testBit c = true ↔ c = x ∧ v.testBit 0 = true := by
      intro c
      unfold bitAt
      cases v.testBit 0 with
      | false => simp
      | true =>
        simp only [Bool.toNat_true, Nat.one_shiftLeft, Nat.testBit_two_pow, decide_eq_true_eq, and_true]
        exact eq_comm
    have hdis : ∀ c, (bitAt v 0 <<< x).testBit c = true → (scatter (v / 2) xs).testBit c = false := by
      intro c hc
      by_contra hne
      obtain ⟨j, hj, -⟩ := (ihAt c).mp (by simpa using hne)
      exact hx (((hbit c).mp hc).1 ▸ List.mem_of_getElem? hj)
    rw [scatter, testBit_add_of_disjoint hdis, Bool.or_eq_true, hbit, ihAt]
    constructor
    · rintro (⟨rfl, hv⟩ | ⟨j, hj, hv⟩)
      · exact ⟨0, rfl, hv⟩
      · exact ⟨j + 1, hj, by rwa [Nat.testBit_succ]⟩
    · rintro ⟨j, hj, hv⟩
      cases j with
      | zero => exact .inl ⟨by simpa [eq_comm] using hj, hv⟩
      | succ j => exact .inr ⟨j, hj, by rwa [Nat.testBit_succ] at hv⟩

/-- A scattered value fits the address width when every position does. -/
theorem scatter_lt (v : Nat) {bits : List Nat} (h : bits.Nodup) {W : Nat} (hW : ∀ b ∈ bits, b < W) :
    scatter v bits < 2 ^ W := by
  apply Nat.lt_pow_two_of_testBit
  intro i hi
  by_contra hne
  obtain ⟨j, hj, -⟩ := (testBit_scatter v h i).mp (by simpa using hne)
  exact absurd (hW i (List.mem_of_getElem? hj)) (by omega)

/-- Reading a scattered value back gives its low bits. -/
theorem field_scatter (v : Nat) {bits : List Nat} (h : bits.Nodup) :
    field (scatter v bits) bits = v % 2 ^ bits.length := by
  apply Nat.eq_of_testBit_eq
  intro j
  rw [testBit_field, Nat.testBit_mod_two_pow]
  by_cases hj : j < bits.length
  · rw [List.getElem?_eq_getElem hj]
    simp only [Option.map_some, Option.getD_some, hj, decide_true, Bool.true_and]
    apply Bool.eq_iff_iff.mpr
    rw [testBit_scatter v h]
    constructor
    · rintro ⟨i, hi, hv⟩
      obtain ⟨hi', he⟩ := List.getElem?_eq_some_iff.mp hi
      rwa [← (List.Nodup.getElem_inj_iff h).mp he]
    · exact fun hv => ⟨j, List.getElem?_eq_getElem hj, hv⟩
  · simp [hj]

/-- Scattering the field read from an address gives the address back when every bit of it is read. -/
theorem scatter_field {A : Nat} {bits : List Nat} (h : bits.Nodup)
    (hA : ∀ b, A.testBit b = true → b ∈ bits) : scatter (field A bits) bits = A := by
  apply Nat.eq_of_testBit_eq
  intro b
  apply Bool.eq_iff_iff.mpr
  rw [testBit_scatter _ h]
  constructor
  · rintro ⟨j, hj, hv⟩
    rw [testBit_field, hj] at hv
    simpa using hv
  · intro hb
    obtain ⟨j, hj, he⟩ := List.mem_iff_getElem.mp (hA b hb)
    refine ⟨j, by rw [List.getElem?_eq_getElem hj, he], ?_⟩
    rw [testBit_field, List.getElem?_eq_getElem hj]
    simpa [he] using hb

/-- The four fields put together as one number, the flags lowest. -/
def packed (p : Partition) (t : Fields) : Nat :=
  t.flags + 2 ^ p.flags.length * (t.opcode + 2 ^ p.opcode.length *
    (t.step + 2 ^ p.step.length * t.slice))

/-- Compose scatters the packed fields over all positions, when they fit (R100). -/
theorem compose_eq_scatter (p : Partition) (t : Fields) (hf : t.flags < 2 ^ p.flags.length)
    (ho : t.opcode < 2 ^ p.opcode.length) (hs : t.step < 2 ^ p.step.length) :
    compose p t = scatter (packed p t) (positions p) := by
  have h1 : packed p t / 2 ^ p.flags.length =
      t.opcode + 2 ^ p.opcode.length * (t.step + 2 ^ p.step.length * t.slice) := by
    rw [packed, Nat.add_mul_div_left _ _ (Nat.two_pow_pos _), Nat.div_eq_of_lt hf, Nat.zero_add]
  have h2 : (t.opcode + 2 ^ p.opcode.length * (t.step + 2 ^ p.step.length * t.slice)) /
      2 ^ p.opcode.length = t.step + 2 ^ p.step.length * t.slice := by
    rw [Nat.add_mul_div_left _ _ (Nat.two_pow_pos _), Nat.div_eq_of_lt ho, Nat.zero_add]
  have h3 : (t.step + 2 ^ p.step.length * t.slice) / 2 ^ p.step.length = t.slice := by
    rw [Nat.add_mul_div_left _ _ (Nat.two_pow_pos _), Nat.div_eq_of_lt hs, Nat.zero_add]
  have m1 : packed p t % 2 ^ p.flags.length = t.flags := by
    rw [packed, Nat.add_mul_mod_self_left, Nat.mod_eq_of_lt hf]
  have m2 : (t.opcode + 2 ^ p.opcode.length * (t.step + 2 ^ p.step.length * t.slice)) %
      2 ^ p.opcode.length = t.opcode := by
    rw [Nat.add_mul_mod_self_left, Nat.mod_eq_of_lt ho]
  have m3 : (t.step + 2 ^ p.step.length * t.slice) % 2 ^ p.step.length = t.step := by
    rw [Nat.add_mul_mod_self_left, Nat.mod_eq_of_lt hs]
  rw [positions, List.append_assoc, List.append_assoc, scatter_append, h1, scatter_append, h2,
    scatter_append, h3, ← scatter_mod (packed p t), m1,
    ← scatter_mod (t.opcode + 2 ^ p.opcode.length * (t.step + 2 ^ p.step.length * t.slice)), m2,
    ← scatter_mod (t.step + 2 ^ p.step.length * t.slice), m3, compose]
  omega

/-- The packed fields of Decompose are the address read at all positions (R98). -/
theorem packed_decompose (p : Partition) (A : Nat) :
    packed p (decompose p A) = field A (positions p) := by
  rw [positions, List.append_assoc, List.append_assoc, field_append, field_append, field_append]
  rfl

/-- Packed fields that fit determine the fields. -/
theorem packed_inj {p : Partition} {t t' : Fields} (hf : t.flags < 2 ^ p.flags.length)
    (ho : t.opcode < 2 ^ p.opcode.length) (hs : t.step < 2 ^ p.step.length)
    (hf' : t'.flags < 2 ^ p.flags.length) (ho' : t'.opcode < 2 ^ p.opcode.length)
    (hs' : t'.step < 2 ^ p.step.length) (h : packed p t = packed p t') : t = t' := by
  obtain ⟨f, o, s, k⟩ := t
  obtain ⟨f', o', s', k'⟩ := t'
  simp only [packed] at *
  have hm := congrArg (· % 2 ^ p.flags.length) h
  have hd := congrArg (· / 2 ^ p.flags.length) h
  simp only [Nat.add_mul_mod_self_left, Nat.mod_eq_of_lt hf, Nat.mod_eq_of_lt hf',
    Nat.add_mul_div_left _ _ (Nat.two_pow_pos _), Nat.div_eq_of_lt hf, Nat.div_eq_of_lt hf',
    Nat.zero_add] at hm hd
  have hm2 := congrArg (· % 2 ^ p.opcode.length) hd
  have hd2 := congrArg (· / 2 ^ p.opcode.length) hd
  simp only [Nat.add_mul_mod_self_left, Nat.mod_eq_of_lt ho, Nat.mod_eq_of_lt ho',
    Nat.add_mul_div_left _ _ (Nat.two_pow_pos _), Nat.div_eq_of_lt ho, Nat.div_eq_of_lt ho',
    Nat.zero_add] at hm2 hd2
  have hm3 := congrArg (· % 2 ^ p.step.length) hd2
  have hd3 := congrArg (· / 2 ^ p.step.length) hd2
  simp only [Nat.add_mul_mod_self_left, Nat.mod_eq_of_lt hs, Nat.mod_eq_of_lt hs',
    Nat.add_mul_div_left _ _ (Nat.two_pow_pos _), Nat.div_eq_of_lt hs, Nat.div_eq_of_lt hs',
    Nat.zero_add] at hm3 hd3
  simp [hm, hm2, hm3, hd3]

/-- Packed fields that fit are below two to the number of positions. -/
theorem packed_lt {p : Partition} {t : Fields} (hf : t.flags < 2 ^ p.flags.length)
    (ho : t.opcode < 2 ^ p.opcode.length) (hs : t.step < 2 ^ p.step.length)
    (hk : t.slice < 2 ^ p.slice.length) : packed p t < 2 ^ (positions p).length := by
  have low : ∀ {x y m : Nat}, x < 2 ^ m → ∀ {n : Nat}, y < 2 ^ n → x + 2 ^ m * y < 2 ^ (m + n) := by
    intro x y m hx n hy
    calc x + 2 ^ m * y < 2 ^ m + 2 ^ m * y := by omega
      _ = 2 ^ m * (y + 1) := by ring
      _ ≤ 2 ^ m * 2 ^ n := Nat.mul_le_mul_left _ hy
      _ = 2 ^ (m + n) := (Nat.pow_add ..).symm
  have := low hf (low ho (low hs hk))
  simpa [positions, packed, Nat.add_assoc] using this

/-- What a passed PartitionCheck says, as facts (R99). -/
theorem partitionCheck_facts {P : Profile} (h : partitionCheck P = none) :
    (∀ b ∈ positions P.partition, b < P.W) ∧ (positions P.partition).Nodup ∧
    (∀ b, b < P.W → b ∈ positions P.partition) ∧ P.nopcodesDecl ≤ 2 ^ P.NO ∧
    P.nstepsDecl ≤ 2 ^ P.NS ∧ nslices P.Wc ≤ 2 ^ P.NB ∧ P.NF = P.flagNames.length := by
  unfold partitionCheck at h
  by_cases h1 : (positions P.partition).any (fun b => P.W ≤ b) = true
  · simp [h1] at h
  by_cases h2 : (positions P.partition).Nodup
  swap
  · rw [if_neg h1, if_pos h2] at h
    cases h
  by_cases h3 : (List.range P.W).any (fun b => b ∉ positions P.partition) = true
  · rw [if_neg h1, if_neg (not_not.mpr h2), if_pos h3] at h
    cases h
  rw [if_neg h1, if_neg (not_not.mpr h2), if_neg h3] at h
  split at h
  · cases h
  split at h
  · cases h
  split at h
  · cases h
  split at h
  · cases h
  refine ⟨fun b hb => ?_, h2, fun b hb => ?_, by omega, by omega, by omega, by omega⟩
  · by_contra hne
    exact h1 (List.any_eq_true.mpr ⟨b, hb, by simpa using hne⟩)
  · by_contra hne
    exact h3 (List.any_eq_true.mpr ⟨b, List.mem_range.mpr hb, by simpa using hne⟩)

end Sys2Proof.Machine
end

