-- ==== Sys2Proof/Laws/Memory.lean ====
section
/-! SUPPORT. The memory of a chip: read after write, and every operation keeps the canonical form. -/

namespace Sys2Proof.Machine

variable {u : Nat → Byte} {n : Nat} {m : Memory}

/-- An address below every listed one reads as unlisted. -/
theorem read_below {a : Nat} (h : ∀ c ∈ m, a < c.1) : Memory.read u m a = u a := by
  induction m with
  | nil => rfl
  | cons c m ih =>
    have hc : a < c.1 := h c (by simp)
    rw [Memory.read, if_neg (by omega)]
    exact ih fun d hd => h d (by simp [hd])

/-- Reading the written cell gives the written byte, in a memory of the canonical form. -/
theorem read_write_same (h : m.Pairwise fun c d => c.1 < d.1) (a : Nat) (b : Byte) :
    Memory.read u (Memory.write u m a b) a = b := by
  induction m with
  | nil => by_cases hb : b = u a <;> simp [Memory.write, Memory.read, hb]
  | cons c m ih =>
    obtain ⟨hc, hm⟩ := List.pairwise_cons.mp h
    obtain ⟨k, v⟩ := c
    simp only [Memory.write]
    split
    · split
      · next hak hb =>
        rw [read_below, hb]
        simpa using ⟨hak, fun a' b' hd => lt_trans hak (hc (a', b') hd)⟩
      · simp [Memory.read]
    · split
      · next hak =>
        subst hak
        split
        · next hb => rw [read_below fun d hd => hc d hd, hb]
        · simp [Memory.read]
      · next hne => rw [Memory.read, if_neg (Ne.symm hne), ih hm]

/-- Reading another cell than the written one gives what it gave. -/
theorem read_write_other {a a' : Nat} (ha : a' ≠ a) (b : Byte) :
    Memory.read u (Memory.write u m a b) a' = Memory.read u m a' := by
  induction m with
  | nil => by_cases hb : b = u a <;> simp [Memory.write, Memory.read, hb, Ne.symm ha]
  | cons c m ih =>
    obtain ⟨k, v⟩ := c
    simp only [Memory.write]
    split
    · split
      · rfl
      · rw [Memory.read, if_neg (Ne.symm ha)]
    · split
      · next hak =>
        subst hak
        split
        · simp [Memory.read, Ne.symm ha]
        · simp [Memory.read, Ne.symm ha]
      · simp [Memory.read, ih]

/-- The cells of a memory after a write are the old ones and the written one. -/
theorem mem_write {a : Nat} {b : Byte} {c : Host.Cell} (h : c ∈ Memory.write u m a b) :
    c ∈ m ∨ (c = (a, b) ∧ b ≠ u a) := by
  induction m with
  | nil =>
    by_cases hb : b = u a
    · simp [Memory.write, hb] at h
    · exact .inr ⟨by simpa [Memory.write, hb] using h, hb⟩
  | cons d m ih =>
    obtain ⟨k, v⟩ := d
    simp only [Memory.write] at h
    split at h
    · split at h
      · exact .inl h
      · next hb => rcases List.mem_cons.mp h with h | h
                   · exact .inr ⟨h, hb⟩
                   · exact .inl h
    · split at h
      · split at h
        · exact .inl (List.mem_cons_of_mem _ h)
        · next hb => rcases List.mem_cons.mp h with h | h
                     · exact .inr ⟨h, hb⟩
                     · exact .inl (List.mem_cons_of_mem _ h)
      · rcases List.mem_cons.mp h with h | h
        · exact .inl (h ▸ List.mem_cons_self)
        · exact (ih h).imp_left (List.mem_cons_of_mem _)

/-- A write below `n` keeps the canonical form. -/
theorem write_wf (h : Memory.wf u n m) {a : Nat} (ha : a < n) (b : Byte) :
    Memory.wf u n (Memory.write u m a b) := by
  refine ⟨?_, fun c hc => ?_⟩
  · have hp := h.1
    clear h
    induction m with
    | nil => by_cases hb : b = u a <;> simp [Memory.write, hb]
    | cons c m ih =>
      obtain ⟨hc, hm⟩ := List.pairwise_cons.mp hp
      obtain ⟨k, v⟩ := c
      simp only [Memory.write]
      split
      · next hak =>
        split
        · exact hp
        · refine List.pairwise_cons.mpr ⟨fun d hd => ?_, hp⟩
          rcases List.mem_cons.mp hd with hd | hd
          · exact hd ▸ hak
          · exact lt_trans hak (hc d hd)
      · next hka =>
        split
        · next hak =>
          subst hak
          split
          · exact hm
          · exact List.pairwise_cons.mpr ⟨hc, hm⟩
        · next hne =>
          refine List.pairwise_cons.mpr ⟨fun d hd => ?_, ih hm⟩
          rcases mem_write hd with hd | ⟨hd, -⟩
          · exact hc d hd
          · subst hd
            show k < a
            omega
  · rcases mem_write hc with hc | ⟨hc, hb⟩
    · exact h.2 c hc
    · exact hc ▸ ⟨ha, hb⟩

/-- Programming bytes that fit keeps the canonical form. -/
theorem program_wf (h : Memory.wf u n m) (a : Nat) (bs : List Byte) (hb : a + bs.length ≤ n) :
    Memory.wf u n (Memory.program u m a bs) := by
  induction bs generalizing m a with
  | nil => exact h
  | cons b bs ih =>
    simp only [List.length_cons] at hb
    exact ih (write_wf h (by omega) b) (a + 1) (by omega)

/-- A programmed chip holds the programmed bytes, and what it held elsewhere. -/
theorem read_program (h : Memory.wf u n m) (a : Nat) (bs : List Byte) (hb : a + bs.length ≤ n)
    (x : Nat) : Memory.read u (Memory.program u m a bs) x =
      if a ≤ x ∧ x < a + bs.length then bs.getD (x - a) 0 else Memory.read u m x := by
  induction bs generalizing m a with
  | nil => rw [if_neg (by simp only [List.length_nil]; omega)]; rfl
  | cons b bs ih =>
    simp only [List.length_cons] at hb
    rw [Memory.program, ih (write_wf h (by omega) b) (a + 1) (by omega)]
    rcases Nat.lt_trichotomy x a with hx | hx | hx
    · rw [if_neg (by omega), if_neg (by omega), read_write_other (by omega)]
    · subst hx
      rw [if_neg (by omega), if_pos (by simp), read_write_same h.1]
      simp
    · by_cases hin : x < a + 1 + bs.length
      · rw [if_pos ⟨by omega, hin⟩, if_pos ⟨by omega, by simp only [List.length_cons]; omega⟩]
        obtain ⟨d, rfl⟩ : ∃ d, x = a + 1 + d := ⟨x - (a + 1), by omega⟩
        rw [show a + 1 + d - a = d + 1 by omega, show a + 1 + d - (a + 1) = d by omega]
        simp
      · rw [if_neg (by omega), if_neg (by simp only [List.length_cons]; omega),
          read_write_other (by omega)]

/-- Writing what the addresses already read as lists nothing. -/
theorem program_unlisted (a : Nat) (bs : List Byte)
    (h : ∀ i, (hi : i < bs.length) → bs[i] = u (a + i)) : Memory.program u [] a bs = [] := by
  induction bs generalizing a with
  | nil => rfl
  | cons b bs ih =>
    have h0 : b = u a := h 0 (by simp)
    rw [Memory.program, Memory.write, if_pos h0]
    refine ih (a + 1) fun i hi => ?_
    have := h (i + 1) (by simpa using hi)
    simpa [Nat.add_assoc, Nat.add_comm 1 i] using this

/-- The empty chip has the canonical form. -/
theorem nil_wf : Memory.wf u n [] := by simp [Memory.wf]

/-- The ROM that a build of `P` leaves, in its canonical form, has it. -/
theorem ofProfile_wf (P : Profile) : (Rom.ofProfile P).wf P := by
  unfold Rom.ofProfile
  split
  · next h => exact ⟨h, nil_wf, nil_wf⟩
  · next h => exact ⟨by simpa using h, nil_wf⟩

/-- Programming an image of the profile's length gives a ROM in the canonical form. -/
theorem rom_program_wf (P : Profile) (hW : splits P = true → 0 < P.W) (image : List Byte)
    (hl : image.length = 2 ^ P.W) : (Rom.program P image).wf P := by
  unfold Rom.program
  split
  · next h =>
    have hm : 2 ^ P.W = splitPoint P + splitPoint P := by
      have := hW h
      unfold splitPoint
      rw [← Nat.two_mul, ← Nat.pow_succ']
      congr 1
      omega
    refine ⟨h, program_wf nil_wf _ _ ?_, program_wf nil_wf _ _ ?_⟩
    · simp [splitImage, hl]
    · simp [splitImage, hl]
      omega
  · next h => exact ⟨by simpa using h, program_wf nil_wf _ _ (by omega)⟩

end Sys2Proof.Machine
end

