-- ==== Sys2Proof/Laws/State.lean ====
section
/-! SUPPORT. The fields of a state after each named update: one lemma per field, so that no later proof
unfolds a record update. -/

namespace Sys2Proof.Machine

section Updates
variable (s : State) (P : Profile) (A : Nat) (b : Byte) (g : Stage) (e : BuildError)

@[simp] theorem start_profile : (State.start P).profile = P := rfl
@[simp] theorem start_stage : (State.start P).stage = .checkCatalog := rfl
@[simp] theorem start_base : (State.start P).base = [] := rfl
@[simp] theorem start_expanded : (State.start P).expanded = [] := rfl
@[simp] theorem start_addr : (State.start P).addr = 0 := rfl
@[simp] theorem start_image : (State.start P).image = [] := rfl
@[simp] theorem start_rom : (State.start P).rom = none := rfl
@[simp] theorem start_addressLines : (State.start P).addressLines = 0 := rfl
@[simp] theorem start_dataOut : (State.start P).dataOut = none := rfl

@[simp] theorem emit_profile : (s.emit b).profile = s.profile := rfl
@[simp] theorem emit_stage : (s.emit b).stage = s.stage := rfl
@[simp] theorem emit_base : (s.emit b).base = s.base := rfl
@[simp] theorem emit_expanded : (s.emit b).expanded = s.expanded := rfl
@[simp] theorem emit_addr : (s.emit b).addr = s.addr + 1 := rfl
@[simp] theorem emit_image : (s.emit b).image = s.image ++ [b] := rfl
@[simp] theorem emit_rom : (s.emit b).rom = s.rom := rfl
@[simp] theorem emit_addressLines : (s.emit b).addressLines = s.addressLines := rfl
@[simp] theorem emit_dataOut : (s.emit b).dataOut = s.dataOut := rfl

@[simp] theorem atStage_profile : (s.atStage g).profile = s.profile := rfl
@[simp] theorem atStage_stage : (s.atStage g).stage = g := rfl
@[simp] theorem atStage_base : (s.atStage g).base = s.base := rfl
@[simp] theorem atStage_expanded : (s.atStage g).expanded = s.expanded := rfl
@[simp] theorem atStage_addr : (s.atStage g).addr = s.addr := rfl
@[simp] theorem atStage_image : (s.atStage g).image = s.image := rfl
@[simp] theorem atStage_rom : (s.atStage g).rom = s.rom := rfl
@[simp] theorem atStage_addressLines : (s.atStage g).addressLines = s.addressLines := rfl
@[simp] theorem atStage_dataOut : (s.atStage g).dataOut = s.dataOut := rfl

@[simp] theorem answered_profile : (s.answered A b).profile = s.profile := rfl
@[simp] theorem answered_stage : (s.answered A b).stage = s.stage := rfl
@[simp] theorem answered_base : (s.answered A b).base = s.base := rfl
@[simp] theorem answered_expanded : (s.answered A b).expanded = s.expanded := rfl
@[simp] theorem answered_addr : (s.answered A b).addr = s.addr := rfl
@[simp] theorem answered_image : (s.answered A b).image = s.image := rfl
@[simp] theorem answered_rom : (s.answered A b).rom = s.rom := rfl
@[simp] theorem answered_addressLines : (s.answered A b).addressLines = A := rfl
@[simp] theorem answered_dataOut : (s.answered A b).dataOut = some b := rfl

@[simp] theorem raise_profile : (s.raise e).profile = s.profile := rfl
@[simp] theorem raise_stage : (s.raise e).stage = .failed e := rfl
@[simp] theorem raise_base : (s.raise e).base = s.base := rfl
@[simp] theorem raise_expanded : (s.raise e).expanded = s.expanded := rfl
@[simp] theorem raise_addr : (s.raise e).addr = s.addr := rfl
@[simp] theorem raise_image : (s.raise e).image = s.image := rfl
@[simp] theorem raise_rom : (s.raise e).rom = s.rom := rfl
@[simp] theorem raise_addressLines : (s.raise e).addressLines = s.addressLines := rfl
@[simp] theorem raise_dataOut : (s.raise e).dataOut = s.dataOut := rfl

@[simp] theorem makeBase_profile : s.makeBase.profile = s.profile := rfl
@[simp] theorem makeBase_stage : s.makeBase.stage = .makeExpanded := rfl
@[simp] theorem makeBase_base : s.makeBase.base = baseTable s.profile := rfl
@[simp] theorem makeBase_expanded : s.makeBase.expanded = s.expanded := rfl
@[simp] theorem makeBase_addr : s.makeBase.addr = s.addr := rfl
@[simp] theorem makeBase_image : s.makeBase.image = s.image := rfl
@[simp] theorem makeBase_rom : s.makeBase.rom = s.rom := rfl
@[simp] theorem makeBase_addressLines : s.makeBase.addressLines = s.addressLines := rfl
@[simp] theorem makeBase_dataOut : s.makeBase.dataOut = s.dataOut := rfl

@[simp] theorem makeExpanded_profile : s.makeExpanded.profile = s.profile := rfl
@[simp] theorem makeExpanded_stage : s.makeExpanded.stage = .addressLoop := rfl
@[simp] theorem makeExpanded_base : s.makeExpanded.base = s.base := rfl
@[simp] theorem makeExpanded_expanded :
    s.makeExpanded.expanded = expandTable s.profile s.base := rfl
@[simp] theorem makeExpanded_addr : s.makeExpanded.addr = 0 := rfl
@[simp] theorem makeExpanded_image : s.makeExpanded.image = [] := rfl
@[simp] theorem makeExpanded_rom : s.makeExpanded.rom = s.rom := rfl
@[simp] theorem makeExpanded_addressLines : s.makeExpanded.addressLines = s.addressLines := rfl
@[simp] theorem makeExpanded_dataOut : s.makeExpanded.dataOut = s.dataOut := rfl

@[simp] theorem finish_profile : s.finish.profile = s.profile := rfl
@[simp] theorem finish_stage : s.finish.stage = .reading := rfl
@[simp] theorem finish_base : s.finish.base = [] := rfl
@[simp] theorem finish_expanded : s.finish.expanded = [] := rfl
@[simp] theorem finish_addr : s.finish.addr = s.addr := rfl
@[simp] theorem finish_image : s.finish.image = [] := rfl
@[simp] theorem finish_rom : s.finish.rom = some (Rom.program s.profile s.image) := rfl
@[simp] theorem finish_addressLines : s.finish.addressLines = s.addressLines := rfl
@[simp] theorem finish_dataOut : s.finish.dataOut =
    dataAt s.profile (some (Rom.program s.profile s.image)) s.addressLines := rfl

@[simp] theorem drive_profile : (s.drive A).profile = s.profile := rfl
@[simp] theorem drive_stage : (s.drive A).stage = s.stage := rfl
@[simp] theorem drive_rom : (s.drive A).rom = s.rom := rfl
@[simp] theorem drive_addressLines : (s.drive A).addressLines = A % 2 ^ s.profile.W := rfl
@[simp] theorem drive_base : (s.drive A).base = s.base := rfl
@[simp] theorem drive_expanded : (s.drive A).expanded = s.expanded := rfl
@[simp] theorem drive_addr : (s.drive A).addr = s.addr := rfl
@[simp] theorem drive_image : (s.drive A).image = s.image := rfl
@[simp] theorem drive_dataOut :
    (s.drive A).dataOut = dataAt s.profile s.rom (A % 2 ^ s.profile.W) := rfl

@[simp] theorem settle_profile : s.settle.profile = s.profile := rfl
@[simp] theorem settle_stage : s.settle.stage = s.stage := rfl
@[simp] theorem settle_base : s.settle.base = s.base := rfl
@[simp] theorem settle_expanded : s.settle.expanded = s.expanded := rfl
@[simp] theorem settle_addr : s.settle.addr = s.addr := rfl
@[simp] theorem settle_image : s.settle.image = s.image := rfl
@[simp] theorem settle_rom : s.settle.rom = s.rom := rfl
@[simp] theorem settle_addressLines : s.settle.addressLines = s.addressLines := rfl
@[simp] theorem settle_dataOut :
    s.settle.dataOut = dataAt s.profile s.rom s.addressLines := rfl

variable (Q : Profile)

@[simp] theorem programmedWith_profile : (s.programmedWith Q A).profile = Q := rfl
@[simp] theorem programmedWith_stage : (s.programmedWith Q A).stage = .reading := rfl
@[simp] theorem programmedWith_base : (s.programmedWith Q A).base = [] := rfl
@[simp] theorem programmedWith_expanded : (s.programmedWith Q A).expanded = [] := rfl
@[simp] theorem programmedWith_addr : (s.programmedWith Q A).addr = 2 ^ Q.W := rfl
@[simp] theorem programmedWith_image : (s.programmedWith Q A).image = [] := rfl
@[simp] theorem programmedWith_rom : (s.programmedWith Q A).rom = some (Rom.ofProfile Q) := rfl
@[simp] theorem programmedWith_addressLines : (s.programmedWith Q A).addressLines = A := rfl
@[simp] theorem programmedWith_dataOut :
    (s.programmedWith Q A).dataOut = dataAt Q (some (Rom.ofProfile Q)) A := rfl

end Updates

/-- There is no output without a ROM (R44). -/
@[simp] theorem dataAt_none (P : Profile) (A : Nat) : dataAt P none A = none := rfl

/-- The output at an address the lines carry is the byte of the ROM there (R120). -/
theorem dataAt_of_lt {P : Profile} (r : Rom) {A : Nat} (h : A < 2 ^ P.W) :
    dataAt P (some r) A = some (r.read P A) := by
  simp [dataAt, h]

/-- An output that is already that of the ROM and the lines stays. -/
theorem settle_of_settled {s : State} (h : s.dataOut = dataAt s.profile s.rom s.addressLines) :
    s.settle = s := by
  unfold State.settle
  rw [← h]

/-- What is driven onto the lines fits them (R31, log entry 13). -/
theorem drive_lt (s : State) (A : Nat) : (s.drive A).addressLines < 2 ^ (s.drive A).profile.W :=
  Nat.mod_lt _ (Nat.two_pow_pos _)

end Sys2Proof.Machine
end

