-- ==== Sys2Proof/Laws/Ops.lean ====
section
/-! SUPPORT. Everything the read port, an instruction and a step can do, said once. -/

namespace Sys2Proof.Machine

/-- Everything a read can do: it answers exactly where a ROM exists and the address has lines (R44, R120). -/
theorem readAt_next_iff {s t : State} {A : Nat} :
    s.readAt A = .next t ↔
      ∃ r, s.rom = some r ∧ A < 2 ^ s.profile.W ∧ t = s.answered A (r.read s.profile A) := by
  unfold State.readAt
  cases h : s.rom with
  | none => simp
  | some r => by_cases hA : A < 2 ^ s.profile.W <;> simp [hA, eq_comm]

/-- A read where a ROM exists, at an address the lines carry. -/
theorem readAt_of_rom {s : State} {r : Rom} {A : Nat} (h : s.rom = some r)
    (hA : A < 2 ^ s.profile.W) : s.readAt A = .next (s.answered A (r.read s.profile A)) :=
  readAt_next_iff.mpr ⟨r, h, hA, rfl⟩

/-- A read where no ROM exists (R44). -/
theorem readAt_of_no_rom {s : State} (A : Nat) (h : s.rom = none) : s.readAt A = .fault .noRom := by
  simp [State.readAt, h]

/-- A read is never refused. -/
theorem readAt_not_refused (s : State) (A : Nat) (r : Refusal) : s.readAt A ≠ .refused r := by
  unfold State.readAt
  cases s.rom with
  | none => simp
  | some r' => by_cases hA : A < 2 ^ s.profile.W <;> simp [hA]

/-- Every meaning is a read at the instruction's own address. -/
theorem exec_eq_readAt (i : Instr) (s : State) : exec i s = s.readAt (encode i) := by
  cases i <;> rfl

/-- A named profile is found under its name. -/
theorem named?_profile (n : NamedProfile) : n.profile.named? = some n := by
  cases n <;> decide

/-- A profile found under a name is that named profile. -/
theorem profile_of_named? {P : Profile} {n : NamedProfile} (h : P.named? = some n) :
    P = n.profile := by
  simpa using List.find?_some h

/-- What fetch finds is the decoding of the address lines in the state's own profile. -/
theorem fetch_some {s : State} {i : Instr} (h : s.fetch = some i) :
    ∃ n, s.profile = n.profile ∧ decode n s.addressLines = .ok i := by
  obtain ⟨n, hn, hd⟩ := Option.bind_eq_some_iff.mp h
  refine ⟨n, profile_of_named? hn, ?_⟩
  cases hdec : decode n s.addressLines with
  | error e => simp [hdec, Except.toOption] at hd
  | ok j => simpa [hdec, Except.toOption] using hd

/-- A decoded address is below `2^W`. -/
theorem lt_of_decode {n : NamedProfile} {A : Nat} {i : Instr} (h : decode n A = .ok i) :
    A < 2 ^ n.profile.W := by
  unfold decode at h
  split at h
  · assumption
  · cases h

/-- A step of a build (R155). -/
theorem step_of_building {s : State} (h1 : s.stage ≠ .reading) (h2 : ∀ e, s.stage ≠ .failed e) :
    step s = .next s.buildStep := by
  unfold step
  cases h : s.stage <;> simp_all

/-- The steps of Run, stage by stage (R155). -/
theorem buildStep_checkCatalog {s : State} (h : s.stage = .checkCatalog) : s.buildStep =
    s.checked ((catalogCheck s.profile).map .signalCollisionError) .checkPartition := by
  simp [State.buildStep, h]

theorem buildStep_checkPartition {s : State} (h : s.stage = .checkPartition) : s.buildStep =
    s.checked ((partitionCheck s.profile).map .addressPartitionError) .checkShape := by
  simp [State.buildStep, h]

theorem buildStep_checkShape {s : State} (h : s.stage = .checkShape) : s.buildStep =
    s.checked ((shapeCheck s.profile).map .profileRefused) .makeBase := by
  simp [State.buildStep, h]

theorem buildStep_makeBase {s : State} (h : s.stage = .makeBase) : s.buildStep = s.makeBase := by
  simp [State.buildStep, h]

theorem buildStep_makeExpanded {s : State} (h : s.stage = .makeExpanded) :
    s.buildStep = s.makeExpanded := by
  simp [State.buildStep, h]

theorem buildStep_addressLoop {s : State} (h : s.stage = .addressLoop) : s.buildStep = s.loopStep := by
  simp [State.buildStep, h]

theorem loopStep_of_lt {s : State} (h : s.addr < 2 ^ s.profile.W) :
    s.loopStep = s.emit (romByte s.profile s.expanded s.addr) := if_pos h

theorem loopStep_of_ge {s : State} (h : 2 ^ s.profile.W ≤ s.addr) : s.loopStep = s.finish :=
  if_neg (Nat.not_lt.mpr h)

end Sys2Proof.Machine
end

