-- ==== Sys2Proof/Laws/PerInstr.lean ====
section
/-! SUPPORT. Per-instruction lemmas: the row of every constructor is the row the decoder gives its opcode,
and its opcode fits the opcode field of its profile. -/

namespace Sys2Proof.Laws.SlotInTable

/-- The opcode of a well-formed instruction fits its profile's opcode field, and the decoder's table gives
the instruction back from its row (R56). -/
def Statement (i : Instr) : Prop :=
  i.wf = true →
    i.slot.fields.opcode < 2 ^ i.slot.named.profile.NO ∧
    ∃ c, rowAt i.slot.named i.slot.fields.opcode = some c ∧
      c i.slot.fields.flags i.slot.fields.step i.slot.fields.slice = i

/-- The shared proof for the three rows of REF17 that are ranges of 32 opcodes (R51, R60). -/
theorem range_row_holds (c : Nat → Nat → Nat → Nat → Instr) (r low f st k : Nat)
    (hr : r < 3) (hc : ref17Ranges[r]? = some c)
    (hs : ∀ low f st k, (c low f st k).slot = ⟨.ref17, ⟨f, 32 * (r + 1) + low, st, k⟩⟩)
    (hl : low < 32) :
    (c low f st k).slot.fields.opcode < 2 ^ (c low f st k).slot.named.profile.NO ∧
    ∃ d, rowAt (c low f st k).slot.named (c low f st k).slot.fields.opcode = some d ∧
      d (c low f st k).slot.fields.flags (c low f st k).slot.fields.step
        (c low f st k).slot.fields.slice = c low f st k := by
  have hno : NamedProfile.ref17.profile.NO = 7 := rfl
  rw [hs]
  refine ⟨?_, c low, ?_, rfl⟩
  · show 32 * (r + 1) + low < 2 ^ NamedProfile.ref17.profile.NO
    rw [hno]
    omega
  · show rowAt .ref17 (32 * (r + 1) + low) = some (c low)
    have h1 : (32 * (r + 1) + low) / 32 - 1 = r := by omega
    have h2 : (32 * (r + 1) + low) % 32 = low := by omega
    simp only [rowAt]
    rw [if_neg (by omega), h1, h2, hc]
    rfl

/-- The low opcode bits of a well-formed range row are below 32. -/
theorem low_lt_of_rangeFieldsOk {low f st k : Nat} (h : rangeFieldsOk low f st k = true) : low < 32 := by
  simp only [rangeFieldsOk, Bool.and_eq_true, decide_eq_true_eq] at h
  exact h.1

theorem toyLoad (f st : Nat) : Statement (.toyLoad f st) :=
  fun _ => ⟨(by decide : 0 < 2 ^ NamedProfile.toy.profile.NO), _, rfl, rfl⟩

theorem toyHalt (f st : Nat) : Statement (.toyHalt f st) :=
  fun _ => ⟨(by decide : 1 < 2 ^ NamedProfile.toy.profile.NO), _, rfl, rfl⟩

theorem refNop (f st k : Nat) : Statement (.refNop f st k) :=
  fun _ => ⟨(by decide : 0 < 2 ^ NamedProfile.ref.profile.NO), _, rfl, rfl⟩

theorem refLda (f st k : Nat) : Statement (.refLda f st k) :=
  fun _ => ⟨(by decide : 1 < 2 ^ NamedProfile.ref.profile.NO), _, rfl, rfl⟩

theorem refSta (f st k : Nat) : Statement (.refSta f st k) :=
  fun _ => ⟨(by decide : 2 < 2 ^ NamedProfile.ref.profile.NO), _, rfl, rfl⟩

theorem refAdd (f st k : Nat) : Statement (.refAdd f st k) :=
  fun _ => ⟨(by decide : 3 < 2 ^ NamedProfile.ref.profile.NO), _, rfl, rfl⟩

theorem refSub (f st k : Nat) : Statement (.refSub f st k) :=
  fun _ => ⟨(by decide : 4 < 2 ^ NamedProfile.ref.profile.NO), _, rfl, rfl⟩

theorem refJmp (f st k : Nat) : Statement (.refJmp f st k) :=
  fun _ => ⟨(by decide : 5 < 2 ^ NamedProfile.ref.profile.NO), _, rfl, rfl⟩

theorem refJz (f st k : Nat) : Statement (.refJz f st k) :=
  fun _ => ⟨(by decide : 6 < 2 ^ NamedProfile.ref.profile.NO), _, rfl, rfl⟩

theorem refJc (f st k : Nat) : Statement (.refJc f st k) :=
  fun _ => ⟨(by decide : 7 < 2 ^ NamedProfile.ref.profile.NO), _, rfl, rfl⟩

theorem refOut (f st k : Nat) : Statement (.refOut f st k) :=
  fun _ => ⟨(by decide : 8 < 2 ^ NamedProfile.ref.profile.NO), _, rfl, rfl⟩

theorem refUndef9 (f st k : Nat) : Statement (.refUndef9 f st k) :=
  fun _ => ⟨(by decide : 9 < 2 ^ NamedProfile.ref.profile.NO), _, rfl, rfl⟩

theorem refUndef10 (f st k : Nat) : Statement (.refUndef10 f st k) :=
  fun _ => ⟨(by decide : 10 < 2 ^ NamedProfile.ref.profile.NO), _, rfl, rfl⟩

theorem refUndef11 (f st k : Nat) : Statement (.refUndef11 f st k) :=
  fun _ => ⟨(by decide : 11 < 2 ^ NamedProfile.ref.profile.NO), _, rfl, rfl⟩

theorem refUndef12 (f st k : Nat) : Statement (.refUndef12 f st k) :=
  fun _ => ⟨(by decide : 12 < 2 ^ NamedProfile.ref.profile.NO), _, rfl, rfl⟩

theorem refUndef13 (f st k : Nat) : Statement (.refUndef13 f st k) :=
  fun _ => ⟨(by decide : 13 < 2 ^ NamedProfile.ref.profile.NO), _, rfl, rfl⟩

theorem refExt (f st k : Nat) : Statement (.refExt f st k) :=
  fun _ => ⟨(by decide : 14 < 2 ^ NamedProfile.ref.profile.NO), _, rfl, rfl⟩

theorem refHlt (f st k : Nat) : Statement (.refHlt f st k) :=
  fun _ => ⟨(by decide : 15 < 2 ^ NamedProfile.ref.profile.NO), _, rfl, rfl⟩

theorem refXUndef16 (f st k : Nat) : Statement (.refXUndef16 f st k) :=
  fun _ => ⟨(by decide : 16 < 2 ^ NamedProfile.ref.profile.NO), _, rfl, rfl⟩

theorem refXjn (f st k : Nat) : Statement (.refXjn f st k) :=
  fun _ => ⟨(by decide : 17 < 2 ^ NamedProfile.ref.profile.NO), _, rfl, rfl⟩

theorem refXjv (f st k : Nat) : Statement (.refXjv f st k) :=
  fun _ => ⟨(by decide : 18 < 2 ^ NamedProfile.ref.profile.NO), _, rfl, rfl⟩

theorem refXUndef19 (f st k : Nat) : Statement (.refXUndef19 f st k) :=
  fun _ => ⟨(by decide : 19 < 2 ^ NamedProfile.ref.profile.NO), _, rfl, rfl⟩

theorem refXUndef20 (f st k : Nat) : Statement (.refXUndef20 f st k) :=
  fun _ => ⟨(by decide : 20 < 2 ^ NamedProfile.ref.profile.NO), _, rfl, rfl⟩

theorem refXUndef21 (f st k : Nat) : Statement (.refXUndef21 f st k) :=
  fun _ => ⟨(by decide : 21 < 2 ^ NamedProfile.ref.profile.NO), _, rfl, rfl⟩

theorem refXUndef22 (f st k : Nat) : Statement (.refXUndef22 f st k) :=
  fun _ => ⟨(by decide : 22 < 2 ^ NamedProfile.ref.profile.NO), _, rfl, rfl⟩

theorem refXUndef23 (f st k : Nat) : Statement (.refXUndef23 f st k) :=
  fun _ => ⟨(by decide : 23 < 2 ^ NamedProfile.ref.profile.NO), _, rfl, rfl⟩

theorem refXUndef24 (f st k : Nat) : Statement (.refXUndef24 f st k) :=
  fun _ => ⟨(by decide : 24 < 2 ^ NamedProfile.ref.profile.NO), _, rfl, rfl⟩

theorem refXUndef25 (f st k : Nat) : Statement (.refXUndef25 f st k) :=
  fun _ => ⟨(by decide : 25 < 2 ^ NamedProfile.ref.profile.NO), _, rfl, rfl⟩

theorem refXUndef26 (f st k : Nat) : Statement (.refXUndef26 f st k) :=
  fun _ => ⟨(by decide : 26 < 2 ^ NamedProfile.ref.profile.NO), _, rfl, rfl⟩

theorem refXUndef27 (f st k : Nat) : Statement (.refXUndef27 f st k) :=
  fun _ => ⟨(by decide : 27 < 2 ^ NamedProfile.ref.profile.NO), _, rfl, rfl⟩

theorem refXUndef28 (f st k : Nat) : Statement (.refXUndef28 f st k) :=
  fun _ => ⟨(by decide : 28 < 2 ^ NamedProfile.ref.profile.NO), _, rfl, rfl⟩

theorem refXUndef29 (f st k : Nat) : Statement (.refXUndef29 f st k) :=
  fun _ => ⟨(by decide : 29 < 2 ^ NamedProfile.ref.profile.NO), _, rfl, rfl⟩

theorem refXUndef30 (f st k : Nat) : Statement (.refXUndef30 f st k) :=
  fun _ => ⟨(by decide : 30 < 2 ^ NamedProfile.ref.profile.NO), _, rfl, rfl⟩

theorem refXUndef31 (f st k : Nat) : Statement (.refXUndef31 f st k) :=
  fun _ => ⟨(by decide : 31 < 2 ^ NamedProfile.ref.profile.NO), _, rfl, rfl⟩

theorem ref17Nop (f st k : Nat) : Statement (.ref17Nop f st k) :=
  fun _ => ⟨(by decide : 0 < 2 ^ NamedProfile.ref17.profile.NO), _, rfl, rfl⟩

theorem ref17Lda (f st k : Nat) : Statement (.ref17Lda f st k) :=
  fun _ => ⟨(by decide : 1 < 2 ^ NamedProfile.ref17.profile.NO), _, rfl, rfl⟩

theorem ref17Sta (f st k : Nat) : Statement (.ref17Sta f st k) :=
  fun _ => ⟨(by decide : 2 < 2 ^ NamedProfile.ref17.profile.NO), _, rfl, rfl⟩

theorem ref17Add (f st k : Nat) : Statement (.ref17Add f st k) :=
  fun _ => ⟨(by decide : 3 < 2 ^ NamedProfile.ref17.profile.NO), _, rfl, rfl⟩

theorem ref17Sub (f st k : Nat) : Statement (.ref17Sub f st k) :=
  fun _ => ⟨(by decide : 4 < 2 ^ NamedProfile.ref17.profile.NO), _, rfl, rfl⟩

theorem ref17Jmp (f st k : Nat) : Statement (.ref17Jmp f st k) :=
  fun _ => ⟨(by decide : 5 < 2 ^ NamedProfile.ref17.profile.NO), _, rfl, rfl⟩

theorem ref17Jz (f st k : Nat) : Statement (.ref17Jz f st k) :=
  fun _ => ⟨(by decide : 6 < 2 ^ NamedProfile.ref17.profile.NO), _, rfl, rfl⟩

theorem ref17Jc (f st k : Nat) : Statement (.ref17Jc f st k) :=
  fun _ => ⟨(by decide : 7 < 2 ^ NamedProfile.ref17.profile.NO), _, rfl, rfl⟩

theorem ref17Out (f st k : Nat) : Statement (.ref17Out f st k) :=
  fun _ => ⟨(by decide : 8 < 2 ^ NamedProfile.ref17.profile.NO), _, rfl, rfl⟩

theorem ref17Undef9 (f st k : Nat) : Statement (.ref17Undef9 f st k) :=
  fun _ => ⟨(by decide : 9 < 2 ^ NamedProfile.ref17.profile.NO), _, rfl, rfl⟩

theorem ref17Undef10 (f st k : Nat) : Statement (.ref17Undef10 f st k) :=
  fun _ => ⟨(by decide : 10 < 2 ^ NamedProfile.ref17.profile.NO), _, rfl, rfl⟩

theorem ref17Undef11 (f st k : Nat) : Statement (.ref17Undef11 f st k) :=
  fun _ => ⟨(by decide : 11 < 2 ^ NamedProfile.ref17.profile.NO), _, rfl, rfl⟩

theorem ref17Undef12 (f st k : Nat) : Statement (.ref17Undef12 f st k) :=
  fun _ => ⟨(by decide : 12 < 2 ^ NamedProfile.ref17.profile.NO), _, rfl, rfl⟩

theorem ref17Undef13 (f st k : Nat) : Statement (.ref17Undef13 f st k) :=
  fun _ => ⟨(by decide : 13 < 2 ^ NamedProfile.ref17.profile.NO), _, rfl, rfl⟩

theorem ref17Ext (f st k : Nat) : Statement (.ref17Ext f st k) :=
  fun _ => ⟨(by decide : 14 < 2 ^ NamedProfile.ref17.profile.NO), _, rfl, rfl⟩

theorem ref17Hlt (f st k : Nat) : Statement (.ref17Hlt f st k) :=
  fun _ => ⟨(by decide : 15 < 2 ^ NamedProfile.ref17.profile.NO), _, rfl, rfl⟩

theorem ref17XUndef16 (f st k : Nat) : Statement (.ref17XUndef16 f st k) :=
  fun _ => ⟨(by decide : 16 < 2 ^ NamedProfile.ref17.profile.NO), _, rfl, rfl⟩

theorem ref17Xjn (f st k : Nat) : Statement (.ref17Xjn f st k) :=
  fun _ => ⟨(by decide : 17 < 2 ^ NamedProfile.ref17.profile.NO), _, rfl, rfl⟩

theorem ref17Xjv (f st k : Nat) : Statement (.ref17Xjv f st k) :=
  fun _ => ⟨(by decide : 18 < 2 ^ NamedProfile.ref17.profile.NO), _, rfl, rfl⟩

theorem ref17XUndef19 (f st k : Nat) : Statement (.ref17XUndef19 f st k) :=
  fun _ => ⟨(by decide : 19 < 2 ^ NamedProfile.ref17.profile.NO), _, rfl, rfl⟩

theorem ref17XUndef20 (f st k : Nat) : Statement (.ref17XUndef20 f st k) :=
  fun _ => ⟨(by decide : 20 < 2 ^ NamedProfile.ref17.profile.NO), _, rfl, rfl⟩

theorem ref17XUndef21 (f st k : Nat) : Statement (.ref17XUndef21 f st k) :=
  fun _ => ⟨(by decide : 21 < 2 ^ NamedProfile.ref17.profile.NO), _, rfl, rfl⟩

theorem ref17XUndef22 (f st k : Nat) : Statement (.ref17XUndef22 f st k) :=
  fun _ => ⟨(by decide : 22 < 2 ^ NamedProfile.ref17.profile.NO), _, rfl, rfl⟩

theorem ref17XUndef23 (f st k : Nat) : Statement (.ref17XUndef23 f st k) :=
  fun _ => ⟨(by decide : 23 < 2 ^ NamedProfile.ref17.profile.NO), _, rfl, rfl⟩

theorem ref17XUndef24 (f st k : Nat) : Statement (.ref17XUndef24 f st k) :=
  fun _ => ⟨(by decide : 24 < 2 ^ NamedProfile.ref17.profile.NO), _, rfl, rfl⟩

theorem ref17XUndef25 (f st k : Nat) : Statement (.ref17XUndef25 f st k) :=
  fun _ => ⟨(by decide : 25 < 2 ^ NamedProfile.ref17.profile.NO), _, rfl, rfl⟩

theorem ref17XUndef26 (f st k : Nat) : Statement (.ref17XUndef26 f st k) :=
  fun _ => ⟨(by decide : 26 < 2 ^ NamedProfile.ref17.profile.NO), _, rfl, rfl⟩

theorem ref17XUndef27 (f st k : Nat) : Statement (.ref17XUndef27 f st k) :=
  fun _ => ⟨(by decide : 27 < 2 ^ NamedProfile.ref17.profile.NO), _, rfl, rfl⟩

theorem ref17XUndef28 (f st k : Nat) : Statement (.ref17XUndef28 f st k) :=
  fun _ => ⟨(by decide : 28 < 2 ^ NamedProfile.ref17.profile.NO), _, rfl, rfl⟩

theorem ref17XUndef29 (f st k : Nat) : Statement (.ref17XUndef29 f st k) :=
  fun _ => ⟨(by decide : 29 < 2 ^ NamedProfile.ref17.profile.NO), _, rfl, rfl⟩

theorem ref17XUndef30 (f st k : Nat) : Statement (.ref17XUndef30 f st k) :=
  fun _ => ⟨(by decide : 30 < 2 ^ NamedProfile.ref17.profile.NO), _, rfl, rfl⟩

theorem ref17XUndef31 (f st k : Nat) : Statement (.ref17XUndef31 f st k) :=
  fun _ => ⟨(by decide : 31 < 2 ^ NamedProfile.ref17.profile.NO), _, rfl, rfl⟩

theorem ref17Undef32To63 (low f st k : Nat) : Statement (.ref17Undef32To63 low f st k) :=
  fun h => range_row_holds _ 0 _ _ _ _ (by decide) rfl (fun _ _ _ _ => rfl) (low_lt_of_rangeFieldsOk h)

theorem ref17Undef64To95 (low f st k : Nat) : Statement (.ref17Undef64To95 low f st k) :=
  fun h => range_row_holds _ 1 _ _ _ _ (by decide) rfl (fun _ _ _ _ => rfl) (low_lt_of_rangeFieldsOk h)

theorem ref17Undef96To127 (low f st k : Nat) : Statement (.ref17Undef96To127 low f st k) :=
  fun h => range_row_holds _ 2 _ _ _ _ (by decide) rfl (fun _ _ _ _ => rfl) (low_lt_of_rangeFieldsOk h)

theorem miniLda (f st k : Nat) : Statement (.miniLda f st k) :=
  fun _ => ⟨(by decide : 0 < 2 ^ NamedProfile.mini.profile.NO), _, rfl, rfl⟩

theorem miniXjz (f st k : Nat) : Statement (.miniXjz f st k) :=
  fun _ => ⟨(by decide : 1 < 2 ^ NamedProfile.mini.profile.NO), _, rfl, rfl⟩

/-- The statement for every instruction, one constructor at a time. -/
theorem every_row (i : Instr) : Statement i :=
  match i with
  | .toyLoad f st => toyLoad f st
  | .toyHalt f st => toyHalt f st
  | .refNop f st k => refNop f st k
  | .refLda f st k => refLda f st k
  | .refSta f st k => refSta f st k
  | .refAdd f st k => refAdd f st k
  | .refSub f st k => refSub f st k
  | .refJmp f st k => refJmp f st k
  | .refJz f st k => refJz f st k
  | .refJc f st k => refJc f st k
  | .refOut f st k => refOut f st k
  | .refUndef9 f st k => refUndef9 f st k
  | .refUndef10 f st k => refUndef10 f st k
  | .refUndef11 f st k => refUndef11 f st k
  | .refUndef12 f st k => refUndef12 f st k
  | .refUndef13 f st k => refUndef13 f st k
  | .refExt f st k => refExt f st k
  | .refHlt f st k => refHlt f st k
  | .refXUndef16 f st k => refXUndef16 f st k
  | .refXjn f st k => refXjn f st k
  | .refXjv f st k => refXjv f st k
  | .refXUndef19 f st k => refXUndef19 f st k
  | .refXUndef20 f st k => refXUndef20 f st k
  | .refXUndef21 f st k => refXUndef21 f st k
  | .refXUndef22 f st k => refXUndef22 f st k
  | .refXUndef23 f st k => refXUndef23 f st k
  | .refXUndef24 f st k => refXUndef24 f st k
  | .refXUndef25 f st k => refXUndef25 f st k
  | .refXUndef26 f st k => refXUndef26 f st k
  | .refXUndef27 f st k => refXUndef27 f st k
  | .refXUndef28 f st k => refXUndef28 f st k
  | .refXUndef29 f st k => refXUndef29 f st k
  | .refXUndef30 f st k => refXUndef30 f st k
  | .refXUndef31 f st k => refXUndef31 f st k
  | .ref17Nop f st k => ref17Nop f st k
  | .ref17Lda f st k => ref17Lda f st k
  | .ref17Sta f st k => ref17Sta f st k
  | .ref17Add f st k => ref17Add f st k
  | .ref17Sub f st k => ref17Sub f st k
  | .ref17Jmp f st k => ref17Jmp f st k
  | .ref17Jz f st k => ref17Jz f st k
  | .ref17Jc f st k => ref17Jc f st k
  | .ref17Out f st k => ref17Out f st k
  | .ref17Undef9 f st k => ref17Undef9 f st k
  | .ref17Undef10 f st k => ref17Undef10 f st k
  | .ref17Undef11 f st k => ref17Undef11 f st k
  | .ref17Undef12 f st k => ref17Undef12 f st k
  | .ref17Undef13 f st k => ref17Undef13 f st k
  | .ref17Ext f st k => ref17Ext f st k
  | .ref17Hlt f st k => ref17Hlt f st k
  | .ref17XUndef16 f st k => ref17XUndef16 f st k
  | .ref17Xjn f st k => ref17Xjn f st k
  | .ref17Xjv f st k => ref17Xjv f st k
  | .ref17XUndef19 f st k => ref17XUndef19 f st k
  | .ref17XUndef20 f st k => ref17XUndef20 f st k
  | .ref17XUndef21 f st k => ref17XUndef21 f st k
  | .ref17XUndef22 f st k => ref17XUndef22 f st k
  | .ref17XUndef23 f st k => ref17XUndef23 f st k
  | .ref17XUndef24 f st k => ref17XUndef24 f st k
  | .ref17XUndef25 f st k => ref17XUndef25 f st k
  | .ref17XUndef26 f st k => ref17XUndef26 f st k
  | .ref17XUndef27 f st k => ref17XUndef27 f st k
  | .ref17XUndef28 f st k => ref17XUndef28 f st k
  | .ref17XUndef29 f st k => ref17XUndef29 f st k
  | .ref17XUndef30 f st k => ref17XUndef30 f st k
  | .ref17XUndef31 f st k => ref17XUndef31 f st k
  | .ref17Undef32To63 low f st k => ref17Undef32To63 low f st k
  | .ref17Undef64To95 low f st k => ref17Undef64To95 low f st k
  | .ref17Undef96To127 low f st k => ref17Undef96To127 low f st k
  | .miniLda f st k => miniLda f st k
  | .miniXjz f st k => miniXjz f st k

end Sys2Proof.Laws.SlotInTable
end

