-- ==== Sys2Proof/Laws/Tables.lean ====
section
/-! SUPPORT. The tables: their shape, and what one element of a table is after each operation of the
expander. -/

namespace Sys2Proof.Machine

/-- The facts of a valid profile the tables rest on (R142). -/
structure ShapeFacts (P : Profile) : Prop where
  names_nodup : (P.signals.map fun e => e.1).Nodup
  known : ∀ w ∈ profileWords P, hasUnknownName P w = false
  narrow : ∀ w ∈ profileWords P, P.word w < 2 ^ P.Wc
  keys : ∀ e ∈ P.ops, e.1 < P.nopcodesDecl
  edit_opcode : ∀ e ∈ P.edits, e.opcode < 2 ^ P.NO
  bodies : ∀ e ∈ P.ops, 2 + e.2.body.length ≤ P.nstepsDecl
  edit_low : ∀ e ∈ P.edits, 2 ≤ e.step
  edit_step : ∀ e ∈ P.edits, e.step < 2 ^ P.NS
  steps : 2 ≤ P.nstepsDecl

/-- ShapeCheck passes exactly when no condition of its table holds (R142). -/
theorem shapeCheck_none_iff {P : Profile} : shapeCheck P = none ↔ ∀ r, shapeFails P r = false := by
  have hall : ∀ r, r ∈ shapeReasons := by intro r; cases r <;> decide
  simp [shapeCheck, List.find?_eq_none, hall]

/-- ShapeCheck's passing gives its facts (R142). -/
theorem shapeCheck_facts {P : Profile} (h : shapeCheck P = none) : ShapeFacts P := by
  have hf := shapeCheck_none_iff.mp h
  have h1 := hf .duplicateName
  have h2 := hf .unknownSignal
  have h3 := hf .wordTooWide
  have h4 := hf .opcodeOutOfRange
  have h5 := hf .bodyTooLong
  have h6 := hf .editInFetch
  have h7 := hf .editStepOutOfRange
  have h10 := hf .stepsDecl
  simp only [shapeFails, Bool.or_eq_false_iff, List.any_eq_false, decide_eq_true_eq, decide_eq_false_iff_not,
    Bool.not_eq_false', Bool.not_eq_true, Nat.not_le, Nat.not_lt] at h1 h2 h3 h4 h5 h6 h7 h10
  exact ⟨h1, h2, h3, h4.1.1, h4.2, h5, h6, h7, h10⟩

/-- What a valid profile passed (R20). -/
theorem valid_parts {P : Profile} (h : buildError P = none) :
    catalogCheck P = none ∧ partitionCheck P = none ∧ shapeCheck P = none := by
  simpa [buildError, Option.or_eq_none_iff] using h

/-- A valid profile has an address bit: its step field holds the fetch words (R19, R99, R142). -/
theorem width_pos {P : Profile} (h : buildError P = none) : 0 < P.W := by
  obtain ⟨-, hp, hs⟩ := valid_parts h
  have hst := (shapeCheck_facts hs).steps
  obtain ⟨hb, -, -, -, hn, -⟩ := partitionCheck_facts hp
  rcases hl : P.partition.step with _ | ⟨b, bs⟩
  · have : P.NS = 0 := by simp [Profile.NS, hl]
    rw [this] at hn
    omega
  · have : b ∈ positions P.partition := by simp [positions, hl]
    exact Nat.pos_of_ne_zero fun h0 => by have := hb b this; omega

/-- The body of a slot of a valid profile leaves room for the fetch words (R142). -/
theorem body_fits {P : Profile} (hs : ShapeFacts P) (hp : P.nstepsDecl ≤ 2 ^ P.NS) (o : Nat) :
    2 + (bodyAt P o).length ≤ 2 ^ P.NS := by
  have hst := hs.steps
  unfold bodyAt slotAt
  cases h : P.ops.find? fun e => e.1 == o with
  | none => simp; omega
  | some e =>
    have := hs.bodies e (List.mem_of_find?_eq_some h)
    simp
    omega

/-- A microprogram has one word per step (R70). -/
theorem micro_length {P : Profile} (hs : ShapeFacts P) (hp : P.nstepsDecl ≤ 2 ^ P.NS) (o : Nat) :
    (micro P o).length = 2 ^ P.NS := by
  have := body_fits hs hp o
  simp only [micro, List.length_append, List.length_cons, List.length_nil, List.length_replicate]
  omega

/-- The words of a body are words of the profile. -/
theorem body_mem {P : Profile} {o : Nat} {w : CtrlWord} (h : w ∈ bodyAt P o) :
    ∃ x ∈ profileWords P, P.word x = w := by
  unfold bodyAt slotAt at h
  cases hf : P.ops.find? fun e => e.1 == o with
  | none => simp [hf] at h
  | some e =>
    simp only [hf, Option.map_some, Option.getD_some, List.mem_map] at h
    obtain ⟨x, hx, rfl⟩ := h
    refine ⟨x, ?_, rfl⟩
    simp only [profileWords, List.mem_cons, List.mem_append, List.mem_flatMap, List.cons_append]
    exact .inr (.inr (.inl (.inr ⟨e, List.mem_of_find?_eq_some hf, hx⟩)))

/-- Every word of a microprogram is a word of the profile or the idle word. -/
theorem micro_mem {P : Profile} {o : Nat} {w : CtrlWord} (h : w ∈ micro P o) :
    w = 0 ∨ ∃ x ∈ profileWords P, P.word x = w := by
  simp only [micro, List.mem_append, List.mem_cons, List.not_mem_nil, or_false] at h
  rcases h with ((rfl | rfl) | h) | h
  · exact .inr ⟨P.fetch0, by simp [profileWords], rfl⟩
  · exact .inr ⟨P.fetch1, by simp [profileWords], rfl⟩
  · exact .inr (body_mem h)
  · exact .inl (List.eq_of_mem_replicate h)

/-- The dimensions of an expanded table (R7, R22). -/
def Shaped (P : Profile) (E : ExpandedTable) : Prop :=
  E.length = 2 ^ P.NF ∧ ∀ T ∈ E, T.length = 2 ^ P.NO ∧ ∀ m ∈ T, m.length = 2 ^ P.NS

/-- The word that a lookup finds, through the three lists. -/
theorem lookup_eq {E : ExpandedTable} {T : OpcodeTable} {m : Microprogram} {f o : Nat}
    (hT : E[f]? = some T) (hm : T[o]? = some m) (s : Nat) : lookup E f o s = m.getD s 0 := by
  simp [lookup, List.getD, hT, hm]

/-- In a table of the right dimensions every index finds its row. -/
theorem row_exists {P : Profile} {E : ExpandedTable} (h : Shaped P E) {f o : Nat}
    (hf : f < 2 ^ P.NF) (ho : o < 2 ^ P.NO) :
    ∃ T m, E[f]? = some T ∧ T[o]? = some m ∧ m.length = 2 ^ P.NS := by
  have hf' : f < E.length := h.1 ▸ hf
  obtain ⟨hl, hr⟩ := h.2 _ (List.getElem_mem hf')
  have ho' : o < E[f].length := hl ▸ ho
  exact ⟨E[f], E[f][o], List.getElem?_eq_getElem hf', List.getElem?_eq_getElem ho',
    hr _ (List.getElem_mem ho')⟩

/-- The replicated base table has the right dimensions (R87). -/
theorem replicate_shaped {P : Profile} (hs : ShapeFacts P) (hp : P.nstepsDecl ≤ 2 ^ P.NS) :
    Shaped P (replicateTable P (baseTable P)) := by
  refine ⟨by simp [replicateTable], fun T hT => ?_⟩
  rw [List.eq_of_mem_replicate hT]
  refine ⟨by simp [baseTable], fun m hm => ?_⟩
  obtain ⟨o, -, rfl⟩ := List.mem_map.mp hm
  exact micro_length hs hp o

/-- The table of one combination after an edit (R89). -/
theorem applyEdit_getElem? (P : Profile) (E : ExpandedTable) (e : FlagEdit) (g : Nat) :
    (applyEdit P E e)[g]? = (E[g]?).map fun T =>
      if editHits e g then T.modify e.opcode (fun m => m.set e.step (P.word e.word)) else T := by
  simp [applyEdit]

/-- The table of one combination after the clear-extend pass (R92). -/
theorem applyClearExtend_getElem? (P : Profile) (E : ExpandedTable) (g : Nat) :
    (applyClearExtend P E)[g]? = (E[g]?).map fun T =>
      T.mapIdx fun o m => if isExt P o then clearExtendAt P m else m := by
  simp [applyClearExtend]

/-- An edit keeps the dimensions. -/
theorem applyEdit_shaped {P : Profile} {E : ExpandedTable} (h : Shaped P E) (e : FlagEdit) :
    Shaped P (applyEdit P E e) := by
  refine ⟨by simp [applyEdit, h.1], fun T hT => ?_⟩
  obtain ⟨g, hg⟩ := List.mem_iff_getElem?.mp hT
  rw [applyEdit_getElem?] at hg
  obtain ⟨T', hT', rfl⟩ := Option.map_eq_some_iff.mp hg
  obtain ⟨hl, hr⟩ := h.2 T' (List.mem_of_getElem? hT')
  split
  · refine ⟨by simp [hl], fun m hm => ?_⟩
    obtain ⟨o, ho⟩ := List.mem_iff_getElem?.mp hm
    rw [List.getElem?_modify] at ho
    obtain ⟨m', hm', rfl⟩ := Option.map_eq_some_iff.mp ho
    have := hr m' (List.mem_of_getElem? hm')
    split <;> simp [this]
  · exact ⟨hl, hr⟩

/-- All the edits keep the dimensions. -/
theorem applyEdits_shaped {P : Profile} {E : ExpandedTable} (h : Shaped P E) :
    Shaped P (applyEdits P E) := by
  unfold applyEdits
  generalize P.edits = es
  induction es generalizing E with
  | nil => exact h
  | cons e es ih => exact ih (applyEdit_shaped h e)

/-- The clear-extend pass keeps the dimensions. -/
theorem applyClearExtend_shaped {P : Profile} {E : ExpandedTable} (h : Shaped P E) :
    Shaped P (applyClearExtend P E) := by
  refine ⟨by simp [applyClearExtend, h.1], fun T hT => ?_⟩
  obtain ⟨T', hT', rfl⟩ := List.mem_map.mp hT
  obtain ⟨hl, hr⟩ := h.2 T' hT'
  refine ⟨by simp [hl], fun m hm => ?_⟩
  obtain ⟨o, ho⟩ := List.mem_iff_getElem?.mp hm
  rw [List.getElem?_mapIdx] at ho
  obtain ⟨m', hm', rfl⟩ := Option.map_eq_some_iff.mp ho
  have := hr m' (List.mem_of_getElem? hm')
  split <;> simp [clearExtendAt, this]

/-- The expanded table of a valid profile has the right dimensions (R93). -/
theorem expand_shaped {P : Profile} (h : buildError P = none) : Shaped P (expand P) := by
  obtain ⟨-, hp, hs⟩ := valid_parts h
  exact applyClearExtend_shaped (applyEdits_shaped
    (replicate_shaped (shapeCheck_facts hs) (partitionCheck_facts hp).2.2.2.2.1))

/-- One word after an edit, in a table of the right dimensions (R89). -/
theorem lookup_applyEdit {P : Profile} {E : ExpandedTable} (h : Shaped P E) (e : FlagEdit)
    {f o s : Nat} (hf : f < 2 ^ P.NF) (ho : o < 2 ^ P.NO) (hs : s < 2 ^ P.NS) :
    lookup (applyEdit P E e) f o s =
      if editHits e f && e.opcode == o && e.step == s then P.word e.word else lookup E f o s := by
  obtain ⟨T, m, hT, hm, hl⟩ := row_exists h hf ho
  have hT' : (applyEdit P E e)[f]? = some (if editHits e f then
      T.modify e.opcode (fun m => m.set e.step (P.word e.word)) else T) := by
    rw [applyEdit_getElem?, hT]
    rfl
  rw [lookup_eq hT hm]
  by_cases he : editHits e f = true
  · rw [if_pos he] at hT'
    by_cases hop : e.opcode = o
    · subst hop
      have hm' : (T.modify e.opcode (fun m => m.set e.step (P.word e.word)))[e.opcode]? =
          some (m.set e.step (P.word e.word)) := by
        simp [hm]
      rw [lookup_eq hT' hm']
      by_cases hst : e.step = s
      · subst hst
        simp [he, List.getD, hl, hs]
      · simp [hst, List.getD, List.getElem?_set_ne hst]
    · have hm' : (T.modify e.opcode (fun m => m.set e.step (P.word e.word)))[o]? = some m := by
        simp [hop, hm]
      rw [lookup_eq hT' hm']
      simp [hop]
  · rw [if_neg he] at hT'
    rw [lookup_eq hT' hm]
    simp [he]

/-- One word after the clear-extend pass, in a table of the right dimensions (R92). -/
theorem lookup_applyClearExtend {P : Profile} {E : ExpandedTable} (h : Shaped P E)
    {f o s : Nat} (hf : f < 2 ^ P.NF) (ho : o < 2 ^ P.NO) (hs : s < 2 ^ P.NS) :
    lookup (applyClearExtend P E) f o s =
      if isExt P o = true ∧ s = terminal ((E.getD f []).getD o [])
      then lookup E f o s ||| clearExtendWord P else lookup E f o s := by
  obtain ⟨T, m, hT, hm, hl⟩ := row_exists h hf ho
  have hT' : (applyClearExtend P E)[f]? = some (T.mapIdx fun o m =>
      if isExt P o then clearExtendAt P m else m) := by
    rw [applyClearExtend_getElem?, hT]
    rfl
  have hm' : (T.mapIdx fun o m => if isExt P o then clearExtendAt P m else m)[o]? =
      some (if isExt P o then clearExtendAt P m else m) := by
    simp [List.getElem?_mapIdx, hm]
  have hrow : (E.getD f []).getD o [] = m := by simp [List.getD, hT, hm]
  rw [lookup_eq hT' hm', lookup_eq hT hm, hrow]
  by_cases hx : isExt P o = true
  · by_cases hst : s = terminal m
    · subst hst
      simp [hx, clearExtendAt, List.getD, hl, hs]
    · simp [hx, hst, clearExtendAt, List.getD, List.getElem?_set_ne (Ne.symm hst)]
  · simp [hx]

/-- The word of the replicated base table is the microprogram's (R87). -/
theorem lookup_replicate (P : Profile) {f o : Nat} (hf : f < 2 ^ P.NF) (ho : o < 2 ^ P.NO) (s : Nat) :
    lookup (replicateTable P (baseTable P)) f o s = (micro P o).getD s 0 := by
  apply lookup_eq (T := baseTable P)
  · simp [replicateTable, hf]
  · simp [baseTable, ho]

/-- One microprogram after the edits, without the rest of the table (R89). -/
def editedSlot (P : Profile) (f o : Nat) : Microprogram :=
  P.edits.foldl (fun m e => if editHits e f && e.opcode == o then m.set e.step (P.word e.word) else m)
    (micro P o)

/-- One microprogram of the expanded table, without the rest of the table (R93). -/
def expandedSlot (P : Profile) (f o : Nat) : Microprogram :=
  if isExt P o then clearExtendAt P (editedSlot P f o) else editedSlot P f o

/-- What a list of edits does to one row (R89). -/
theorem edits_row (P : Profile) (es : List FlagEdit) {E : ExpandedTable} {f o : Nat} {T : OpcodeTable}
    {m : Microprogram} (hT : E[f]? = some T) (hm : T[o]? = some m) :
    ∃ T', (es.foldl (applyEdit P) E)[f]? = some T' ∧
      T'[o]? = some (es.foldl (fun m e =>
        if editHits e f && e.opcode == o then m.set e.step (P.word e.word) else m) m) := by
  induction es generalizing E T m with
  | nil => exact ⟨T, hT, hm⟩
  | cons e es ih =>
    refine ih (E := applyEdit P E e) (by rw [applyEdit_getElem?, hT]; rfl) ?_
    by_cases h1 : editHits e f = true
    · by_cases h2 : e.opcode = o <;> simp [h1, h2, hm]
    · simp [h1, hm]

/-- A row of the expanded table is the slot expanded alone. -/
theorem expand_row (P : Profile) {f o : Nat} (hf : f < 2 ^ P.NF) (ho : o < 2 ^ P.NO) :
    ∃ T, (expand P)[f]? = some T ∧ T[o]? = some (expandedSlot P f o) := by
  obtain ⟨T, hT, hm⟩ := edits_row P P.edits (E := replicateTable P (baseTable P)) (f := f) (o := o)
    (T := baseTable P) (m := micro P o) (by simp [replicateTable, hf]) (by simp [baseTable, ho])
  refine ⟨_, by rw [expand, expandTable, applyClearExtend_getElem?, applyEdits, hT]; rfl, ?_⟩
  simp only [List.getElem?_mapIdx, hm, Option.map_some]
  rfl

/-- A word of the expanded table, from its own slot alone: what a concrete profile is evaluated by. -/
theorem lookup_expand (P : Profile) {f o : Nat} (hf : f < 2 ^ P.NF) (ho : o < 2 ^ P.NO) (s : Nat) :
    lookup (expand P) f o s = (expandedSlot P f o).getD s 0 := by
  obtain ⟨T, hT, hm⟩ := expand_row P hf ho
  exact lookup_eq hT hm s

end Sys2Proof.Machine
end

