-- ==== Sys2Proof/Laws/Rom.lean ====
section
/-! SUPPORT. The ROM of a valid profile: the halves of the address space, what the canonical ROM answers,
and that programming the finished image gives it. -/

namespace Sys2Proof.Machine

/-- The address space is twice the midpoint (R118). -/
theorem two_halves {P : Profile} (h : 0 < P.W) : 2 ^ P.W = splitPoint P + splitPoint P := by
  unfold splitPoint
  rw [← Nat.two_mul, ← Nat.pow_succ']
  congr 1
  omega

/-- The top address bit says in which half an address lies (R118). -/
theorem testBit_top {W A : Nat} (hW : 0 < W) (hA : A < 2 ^ W) :
    A.testBit (W - 1) = decide (2 ^ (W - 1) ≤ A) := by
  have h2 : 2 ^ W = 2 ^ (W - 1) + 2 ^ (W - 1) := by
    rw [← Nat.two_mul, ← Nat.pow_succ']
    congr 1
    omega
  by_cases h : 2 ^ (W - 1) ≤ A
  · have : A / 2 ^ (W - 1) = 1 := by
      apply Nat.div_eq_of_lt_le <;> omega
    simp [Nat.testBit_eq_decide_div_mod_eq, this, h]
  · simp [h, Nat.testBit_lt_two_pow (not_le.mp h)]

/-- The canonical ROM of a valid profile answers the closed form (R117, R120). -/
theorem read_ofProfile {P : Profile} (hv : buildError P = none) {A : Nat} (hA : A < 2 ^ P.W) :
    (Rom.ofProfile P).read P A = imageByte P A := by
  unfold Rom.ofProfile
  by_cases hs : splits P = true
  · have hW := width_pos hv
    have h2 := two_halves hW
    rw [if_pos hs]
    simp only [Rom.read, testBit_top hW hA, Memory.read, unlisted]
    by_cases hA2 : 2 ^ (P.W - 1) ≤ A
    · have h3 : splitPoint P ≤ A := hA2
      rw [if_pos (by simpa using hA2), Nat.mod_eq_sub_mod h3, Nat.mod_eq_of_lt (by omega)]
      congr 1
      omega
    · have h3 : A < splitPoint P := not_le.mp hA2
      rw [if_neg (by simpa using hA2), Nat.mod_eq_of_lt h3, Nat.zero_add]
  · rw [if_neg hs]
    simp [Rom.read, Memory.read, unlisted]

/-- Programming the finished image leaves the canonical ROM (R156 (a)). -/
theorem program_build {P : Profile} (hv : buildError P = none) :
    Rom.program P (build P) = Rom.ofProfile P := by
  unfold Rom.program Rom.ofProfile
  by_cases hs : splits P = true
  · have h2 := two_halves (width_pos hv)
    rw [if_pos hs, if_pos hs, program_unlisted, program_unlisted]
    all_goals
      intro i hi
      simp [splitImage, build, unlisted]
  · rw [if_neg hs, if_neg hs, program_unlisted]
    intro i hi
    simp [build, unlisted]

end Sys2Proof.Machine
end

