-- ==== Sys2Proof/Tests/Slice0.lean ====
section
/-! SUPPORT. Tests of the model against the spec's own tables and vectors, and for every statement with
hypotheses a named theorem that shows a state and operands that meet them. -/

namespace Sys2Proof.Tests

open Sys2Proof Sys2Proof.Machine

/-! ## Well-formedness: each check refuses an ill-formed term -/

theorem test_wf_accepts_the_largest_operands :
    [Instr.toyHalt 1 3, .refXUndef31 15 15 3, .ref17Undef96To127 31 15 15 3, .miniXjz 15 3 1].all
      Instr.wf = true := by decide

theorem test_wf_refuses_toy_flags : (Instr.toyLoad 2 0).wf = false := by decide
theorem test_wf_refuses_toy_step : (Instr.toyHalt 0 4).wf = false := by decide
theorem test_wf_refuses_ref_flags : (Instr.refLda 16 0 0).wf = false := by decide
theorem test_wf_refuses_ref_step : (Instr.ref17Sub 0 16 0).wf = false := by decide
theorem test_wf_refuses_ref_slice : (Instr.refXjn 0 0 4).wf = false := by decide
theorem test_wf_refuses_low_opcode_bits : (Instr.ref17Undef32To63 32 0 0 0).wf = false := by decide
theorem test_wf_refuses_range_fields : (Instr.ref17Undef64To95 0 0 0 4).wf = false := by decide
theorem test_wf_refuses_mini_flags : (Instr.miniLda 16 0 0).wf = false := by decide
theorem test_wf_refuses_mini_step : (Instr.miniXjz 0 4 0).wf = false := by decide
theorem test_wf_refuses_mini_slice : (Instr.miniXjz 0 0 2).wf = false := by decide

/-! ## Decoding: one word for every constructor, written from the spec's encoding pattern -/

/-- Every word decodes to the instruction beside it, and is that instruction's encoding. -/
def decodes (n : NamedProfile) (rows : List (Nat × Instr)) : Bool :=
  rows.all fun r => (decode n r.1).toOption == some r.2 && encode r.2 == r.1

/-- Rows of TOY, from the `encoding` column of spec/opcode_table.json. -/
theorem test_decode_toy_0 : decodes .toy
    [(0b1_0_10, .toyLoad 1 2),
     (0b0_1_00, .toyHalt 0 0)] = true := by decide

/-- Rows of REF, from the `encoding` column of spec/opcode_table.json. -/
theorem test_decode_ref_0 : decodes .ref
    [(0b01_1011_00000_1111, .refNop 11 15 1),
     (0b00_0011_00001_0111, .refLda 3 7 0),
     (0b01_1101_00010_1000, .refSta 13 8 1),
     (0b01_0101_00011_0010, .refAdd 5 2 1),
     (0b00_0100_00100_0100, .refSub 4 4 0),
     (0b01_0110_00101_0110, .refJmp 6 6 1),
     (0b01_1001_00110_1010, .refJz 9 10 1),
     (0b11_0101_00111_0110, .refJc 5 6 3),
     (0b11_0000_01000_1011, .refOut 0 11 3)] = true := by decide

/-- Rows of REF, from the `encoding` column of spec/opcode_table.json. -/
theorem test_decode_ref_1 : decodes .ref
    [(0b00_0100_01001_1000, .refUndef9 4 8 0),
     (0b10_1001_01010_0000, .refUndef10 9 0 2),
     (0b10_1001_01011_1011, .refUndef11 9 11 2),
     (0b11_1010_01100_0101, .refUndef12 10 5 3),
     (0b10_0101_01101_0001, .refUndef13 5 1 2),
     (0b00_1011_01110_1100, .refExt 11 12 0),
     (0b00_1011_01111_1100, .refHlt 11 12 0),
     (0b01_0001_10000_0101, .refXUndef16 1 5 1),
     (0b10_0111_10001_1110, .refXjn 7 14 2)] = true := by decide

/-- Rows of REF, from the `encoding` column of spec/opcode_table.json. -/
theorem test_decode_ref_2 : decodes .ref
    [(0b00_1000_10010_1110, .refXjv 8 14 0),
     (0b11_1001_10011_0001, .refXUndef19 9 1 3),
     (0b10_0110_10100_1010, .refXUndef20 6 10 2),
     (0b00_1010_10101_1000, .refXUndef21 10 8 0),
     (0b01_1010_10110_1001, .refXUndef22 10 9 1),
     (0b11_0100_10111_1001, .refXUndef23 4 9 3),
     (0b11_0001_11000_0010, .refXUndef24 1 2 3),
     (0b10_0111_11001_1011, .refXUndef25 7 11 2),
     (0b00_1101_11010_0100, .refXUndef26 13 4 0)] = true := by decide

/-- Rows of REF, from the `encoding` column of spec/opcode_table.json. -/
theorem test_decode_ref_3 : decodes .ref
    [(0b01_1111_11011_1010, .refXUndef27 15 10 1),
     (0b00_0100_11100_1101, .refXUndef28 4 13 0),
     (0b01_1101_11101_1011, .refXUndef29 13 11 1),
     (0b01_1101_11110_1001, .refXUndef30 13 9 1),
     (0b11_0101_11111_1110, .refXUndef31 5 14 3)] = true := by decide

/-- Rows of REF17, from the `encoding` column of spec/opcode_table.json. -/
theorem test_decode_ref17_0 : decodes .ref17
    [(0b00_10_1111_00000_1000, .ref17Nop 15 8 2),
     (0b00_00_1100_00001_0100, .ref17Lda 12 4 0),
     (0b00_10_0101_00010_1111, .ref17Sta 5 15 2),
     (0b00_10_0010_00011_1111, .ref17Add 2 15 2),
     (0b00_00_0010_00100_1011, .ref17Sub 2 11 0),
     (0b00_11_1011_00101_1000, .ref17Jmp 11 8 3),
     (0b00_01_1001_00110_1010, .ref17Jz 9 10 1),
     (0b00_10_1111_00111_1000, .ref17Jc 15 8 2),
     (0b00_10_1110_01000_1001, .ref17Out 14 9 2)] = true := by decide

/-- Rows of REF17, from the `encoding` column of spec/opcode_table.json. -/
theorem test_decode_ref17_1 : decodes .ref17
    [(0b00_11_1000_01001_1011, .ref17Undef9 8 11 3),
     (0b00_10_0101_01010_1110, .ref17Undef10 5 14 2),
     (0b00_01_0100_01011_0101, .ref17Undef11 4 5 1),
     (0b00_00_1111_01100_1001, .ref17Undef12 15 9 0),
     (0b00_10_0101_01101_1101, .ref17Undef13 5 13 2),
     (0b00_01_0000_01110_0110, .ref17Ext 0 6 1),
     (0b00_01_0101_01111_0111, .ref17Hlt 5 7 1),
     (0b00_01_1111_10000_0111, .ref17XUndef16 15 7 1),
     (0b00_10_0100_10001_0011, .ref17Xjn 4 3 2)] = true := by decide

/-- Rows of REF17, from the `encoding` column of spec/opcode_table.json. -/
theorem test_decode_ref17_2 : decodes .ref17
    [(0b00_00_1111_10010_0110, .ref17Xjv 15 6 0),
     (0b00_11_1110_10011_1011, .ref17XUndef19 14 11 3),
     (0b00_10_0110_10100_0111, .ref17XUndef20 6 7 2),
     (0b00_10_1011_10101_1100, .ref17XUndef21 11 12 2),
     (0b00_00_0011_10110_1011, .ref17XUndef22 3 11 0),
     (0b00_10_0011_10111_1001, .ref17XUndef23 3 9 2),
     (0b00_11_1011_11000_0100, .ref17XUndef24 11 4 3),
     (0b00_01_1011_11001_1110, .ref17XUndef25 11 14 1),
     (0b00_01_1100_11010_1111, .ref17XUndef26 12 15 1)] = true := by decide

/-- Rows of REF17, from the `encoding` column of spec/opcode_table.json. -/
theorem test_decode_ref17_3 : decodes .ref17
    [(0b00_00_0010_11011_1011, .ref17XUndef27 2 11 0),
     (0b00_01_0011_11100_1010, .ref17XUndef28 3 10 1),
     (0b00_11_1100_11101_1101, .ref17XUndef29 12 13 3),
     (0b00_11_1111_11110_1001, .ref17XUndef30 15 9 3),
     (0b00_10_1100_11111_0101, .ref17XUndef31 12 5 2),
     (0b01_11_1111_00001_1000, .ref17Undef32To63 1 15 8 3),
     (0b10_11_1010_10010_1001, .ref17Undef64To95 18 10 9 3),
     (0b11_00_0100_00111_1111, .ref17Undef96To127 7 4 15 0)] = true := by decide

/-- Rows of MINI, from the `encoding` column of spec/opcode_table.json. -/
theorem test_decode_mini_0 : decodes .mini
    [(0b1_0_1_01_1_10, .miniLda 14 1 1),
     (0b0_1_1_11_0_00, .miniXjz 4 3 0)] = true := by decide

/-- A word with a bit that has no address line is no instruction (R31, D30). -/
theorem test_decode_refuses_missing_lines :
    [(decode .toy 16).toOption, (decode .ref 0x8000).toOption, (decode .ref17 0x20000).toOption,
      (decode .mini 256).toOption] = [none, none, none, none] := by decide

/-- Zero operands, as the table numbers its rows. -/
theorem test_table_words :
    [decodeTableWord 8 0x4, decodeTableWord 16 0x0120, decodeTableWord 24 0x18000,
      decodeTableWord 8 0x40] =
    [some (.toyHalt 0 0), some (.refXjv 0 0 0), some (.ref17Undef96To127 0 0 0 0),
      some (.miniXjz 0 0 0)] := by decide

/-! ## Reads: a step of the machine with the address on the lines -/

/-- A step on the ROM of `P` with each address on the lines answers the byte beside it and leaves that
address there. -/
def reads (P : Profile) (rows : List (Nat × Byte)) : Bool :=
  rows.all fun r =>
    match step (State.reset.programmedWith P r.1) with
    | .next t => t.dataOut == some r.2 && t.addressLines == r.1
    | _ => false

/-- V98 to V106 (95_test_vectors.md section 3). -/
theorem test_ref_cells_0 : reads refProfile [(0x0000, 0x03), (0x0001, 0x1C), (0x0002, 0x00), (0x0010, 0x03), (0x0011, 0x1C),
    (0x0012, 0x22), (0x0013, 0x84), (0x2013, 0x00), (0x0014, 0x00)] = true := by decide

/-- V107 to V115 (95_test_vectors.md section 3). -/
theorem test_ref_cells_1 : reads refProfile [(0x1213, 0x84), (0x0022, 0x22), (0x0023, 0x00), (0x2023, 0x03), (0x2A23, 0x03),
    (0x0033, 0x04), (0x2033, 0x04), (0x0034, 0x80), (0x2034, 0x18)] = true := by decide

/-- V116 to V124 (95_test_vectors.md section 3). -/
theorem test_ref_cells_2 : reads refProfile [(0x0044, 0x80), (0x2044, 0x38), (0x4044, 0x00), (0x6044, 0x00), (0x0052, 0x60),
    (0x0062, 0x00), (0x0462, 0x60), (0x0662, 0x60), (0x1A62, 0x00)] = true := by decide

/-- V125 to V133 (95_test_vectors.md section 3). -/
theorem test_ref_cells_3 : reads refProfile [(0x1E62, 0x60), (0x0272, 0x60), (0x0472, 0x00), (0x0082, 0x00), (0x2082, 0x41),
    (0x0091, 0x1C), (0x0092, 0x00), (0x00D2, 0x00), (0x00E2, 0x00)] = true := by decide

/-- V134 to V142 (95_test_vectors.md section 3). -/
theorem test_ref_cells_4 : reads refProfile [(0x40E2, 0x01), (0x20F2, 0x80), (0x4102, 0x02), (0x0112, 0x00), (0x4112, 0x02),
    (0x4113, 0x00), (0x0912, 0x60), (0x4912, 0x02), (0x1912, 0x60)] = true := by decide

/-- V143 to V151 (95_test_vectors.md section 3). -/
theorem test_ref_cells_5 : reads refProfile [(0x0F22, 0x00), (0x1122, 0x60), (0x5122, 0x02), (0x5922, 0x02), (0x0132, 0x00),
    (0x4132, 0x02), (0x41F2, 0x02), (0x41F3, 0x00), (0x7FFF, 0x00)] = true := by decide

/-- V75: TOY, cells 0 to 7 (R124). -/
theorem test_toy_cells : reads toyProfile [(0, 0x11), (1, 0xE0), (2, 0x03), (3, 0x04), (4, 0x11),
    (5, 0xE0), (6, 0x08), (7, 0x00), (11, 0x04)] = true := by decide

/-- Cells of MINI from the printed image (95_test_vectors.md section 4). -/
theorem test_mini_cells : reads miniProfile [(0x00, 0x03), (0x04, 0x00), (0x4A, 0x1C), (0x12, 0x22),
    (0x1A, 0x84), (0x50, 0x00), (0x54, 0x04), (0x52, 0x00), (0x73, 0x00)] = true := by decide

theorem test_mini_cells_chip_1 : reads miniProfile [(0xBB, 0x84), (0xC8, 0x1C), (0xD0, 0x60),
    (0xD4, 0x04), (0xD6, 0x04), (0xF0, 0x60), (0xFF, 0x00)] = true := by decide

set_option maxRecDepth 4000 in
/-- Cells of REF17 (95_test_vectors.md section 3, R130). -/
theorem test_ref17_cells : reads ref17Profile [(0x08010, 0x03), (0x08011, 0x1C), (0x08012, 0x00),
    (0x08462, 0x00)] = true := by decide

set_option maxRecDepth 4000 in
theorem test_ref17_cells_more : reads ref17Profile [(0x0C112, 0x00), (0x181F1, 0x1C), (0x00013, 0x84),
    (0x10013, 0x00)] = true := by decide

/-- The host's placing of a word: the next step runs it as the first instruction after reset. -/
theorem test_fetch_word_runs : (match step (State.reset.withFetchWord 16 0x4912) with
    | .next t => t.dataOut == some 0x02
    | _ => false) = true := by decide

/-- A value driven onto the lines is answered at once, without a step (V75; R26); of 22, which the four
lines of TOY cannot carry, the low bits are driven (log entry 13). -/
theorem test_output_follows_the_lines :
    ((State.reset.programmedWith toyProfile 0).dataOut = some 0x11) ∧
    (((State.reset.programmedWith toyProfile 0).drive 6).dataOut = some 0x08) ∧
    (((State.reset.programmedWith toyProfile 0).drive 22).dataOut = some 0x08) ∧
    ((State.reset.drive 6).dataOut = none) := by decide

/-- The end of the address loop puts the byte at the standing address on the output (R30, V75). -/
theorem test_output_at_the_end_of_the_build :
    (State.finish { State.start toyProfile with addr := 16, image := build toyProfile }).dataOut =
      some 0x11 := by decide

/-- The bank: SUB of REF at step 4 and XJN with N set at step 2 (V76, V77), XJZ of MINI (V78). -/
theorem test_bank : [(Rom.ofProfile refProfile).bank refProfile 0 4 4,
    (Rom.ofProfile refProfile).bank refProfile 4 17 2,
    (Rom.ofProfile miniProfile).bank miniProfile 2 1 2] = [0x03880, 0x20060, 0x460] := by decide

/-- Program 2: the four steps of XJZ with Z set. -/
theorem test_bank_sequence : (List.range 4).map ((Rom.ofProfile miniProfile).bank miniProfile 2 1) =
    [0x003, 0x01C, 0x460, 0x000] := by decide

/-! ## The parts of the encoder -/

/-- V7 to V10: sig, word and names of REF. -/
theorem test_sig : ["PCO", "IRO", "ACO", "HLT", "EXS", "EXC", "FOO"].map refProfile.sig? =
    [some 0x00001, some 0x00020, some 0x00100, some 0x08000, some 0x10000, some 0x20000, none] := by
  decide

theorem test_word_and_names :
    refProfile.word (.names ["IRO", "MAI", "IRO"]) = 0x00022 ∧
    refProfile.word (.names ["SMO", "ACI", "FLI", "SBM"]) = 0x03880 ∧
    refProfile.names 0x0001C = ["RMO", "IRI", "PCC"] ∧ refProfile.names 0 = [] := by decide

/-- V5: the range checks run before the pairs. -/
theorem test_catalog_range_first :
    catalogCheck { toyProfile with signals := [("A", 3), ("B", 3), ("C", 9)] } =
      some (.outOfRange "C" 9) := by decide

/-- V13 to V21: the steps 2 to 5 of base rows of REF. -/
theorem test_base_rows : [1, 2, 3, 4, 5, 8, 14, 15, 9].map (fun o => ((micro refProfile o).drop 2).take 4) =
    [[0x22, 0x84, 0, 0], [0x22, 0x300, 0, 0], [0x22, 0x404, 0x1880, 0], [0x22, 0x404, 0x3880, 0],
     [0x60, 0, 0, 0], [0x4100, 0, 0, 0], [0x10000, 0, 0, 0], [0x8000, 0, 0, 0], [0, 0, 0, 0]] := by
  decide

/-- V35: the terminal step. -/
theorem test_terminal : [[1, 1, 0, 0], [1, 1, 0x22, 0x84], [1, 1, 0x22, 0, 0x10, 0, 0, 0],
    [1, 1, 0, 0, 0, 0, 0, 1]].map terminal = [2, 3, 4, 7] := by decide

/-- V36: LDA marked as extended-page gets clear-extend at its last step. -/
theorem test_clear_extend_at_the_last_step :
    (expandedSlot { refProfile with extSlots := [1] } 0 1).take 5 =
      [0x00003, 0x0001C, 0x00022, 0x20084, 0] := by decide

/-- V37: the later edit wins. -/
theorem test_later_edit_wins :
    [0, 1].map (fun f => (expandedSlot { refProfile with
      edits := [⟨0, 0, 5, 2, .value 1⟩, ⟨1, 1, 5, 2, .value 2⟩] } f 5).getD 2 0) = [1, 2] := by decide

/-- V38: the combinations an edit matches. -/
theorem test_edit_matches :
    (List.range 16).filter (editHits ⟨0b0011, 0b0001, 6, 2, .value 0x60⟩) = [1, 5, 9, 13] := by decide

/-- V42, V45, V47, V48: Decompose. -/
theorem test_decompose :
    decompose refPartition 0x2A23 = ⟨5, 2, 3, 1⟩ ∧ decompose ref17Partition 0x181F1 = ⟨0, 127, 1, 0⟩ ∧
    decompose miniPartition 0xD6 = ⟨10, 1, 2, 1⟩ ∧ decompose miniPartition 0xA3 = ⟨15, 0, 0, 0⟩ ∧
    decompose toyPartition 0xB = ⟨1, 0, 3, 0⟩ := by decide

/-- V44, V49: Compose. -/
theorem test_compose :
    compose refPartition ⟨2, 6, 2, 0⟩ = 0x0462 ∧ compose refPartition ⟨4, 17, 2, 2⟩ = 0x4912 ∧
    compose miniPartition ⟨13, 1, 2, 1⟩ = 0x77 ∧ compose miniPartition ⟨9, 0, 2, 0⟩ = 0x13 := by decide

/-- V51 to V56, V59, V60: PartitionCheck. -/
theorem test_partition_check :
    [toyProfile, { toyProfile with W := 5 },
     { toyProfile with partition := { toyPartition with step := [1, 2] } },
     { toyProfile with partition := { toyPartition with flags := [4] } },
     { refProfile with W := 14, partition := ⟨[8, 9, 10, 11], [4, 5, 6, 7], [0, 1, 2, 3], [12, 13]⟩ },
     { refProfile with nstepsDecl := 17 }, { refProfile with flagNames := ["C", "Z", "N"] },
     { toyProfile with opcodeCount := 3 }].map partitionCheck =
    [none, some .bitDropped, some .bitShared, some .bitOutOfRange, some .opcodeTooNarrow,
     some .stepTooNarrow, some .flagsWidth, some .opcodeTooNarrow] := by decide

/-- V57, V58: the slice field against the width. -/
theorem test_partition_check_slices :
    partitionCheck { refProfile with wordWidth := 40 } = some .sliceTooNarrow ∧
    partitionCheck { refProfile with wordWidth := 32 } = none := by decide

/-- V61 to V70: Slice. -/
theorem test_slices :
    (List.range 4).map (slice 18 0x3FFFF) = [0xFF, 0xFF, 0x03, 0] ∧
    (List.range 5).map (slice 32 0xDEADBEEF) = [0xEF, 0xBE, 0xAD, 0xDE, 0] ∧
    (List.range 2).map (slice 9 0x100) = [0x00, 0x01] ∧ (List.range 2).map (slice 1 1) = [1, 0] := by
  decide

/-- V82 to V91 without the missing clear-extend word: the outcome of a wrong REF. -/
theorem test_refused_profiles :
    [{ refProfile with signals := refSignals.dropLast ++ [("EXC", 18)] },
     { refProfile with signals := refSignals.dropLast ++ [("EXC", 16)] },
     { refProfile with ops := refOps ++ [(32, ⟨"FOO", false, []⟩)] },
     { refProfile with ops := refOps ++ [(9, ⟨"LONG", false, List.replicate 15 (.value 1)⟩)] },
     { refProfile with edits := [⟨0, 0, 5, 16, .value 1⟩] },
     { refProfile with edits := [⟨0b0001, 0b0011, 5, 2, .value 1⟩] },
     { refProfile with edits := [⟨16, 16, 5, 2, .value 1⟩] }].map buildError =
    [some (.signalCollisionError (.outOfRange "EXC" 18)),
     some (.signalCollisionError (.collision "EXS" "EXC" 16)),
     some (.profileRefused .opcodeOutOfRange), some (.profileRefused .bodyTooLong),
     some (.profileRefused .editStepOutOfRange), some (.profileRefused .editMask),
     some (.profileRefused .editMask)] := by decide

/-- V84: the catalog's error comes before the partition's (R146). -/
theorem test_catalog_before_partition :
    buildError { refProfile with
      signals := refSignals.dropLast ++ [("EXC", 16)]
      partition := { refPartition with flags := [9, 10, 11] } } =
    some (.signalCollisionError (.collision "EXS" "EXC" 16)) := by decide

/-- The nearest accepted profiles of V86 and V92. -/
theorem test_accepted_profiles :
    [{ refProfile with ops := refOps ++ [(9, ⟨"LONG", false, List.replicate 14 (.value 1)⟩)] },
     { refProfile with fetch0 := .value 0x3FFFF }].map buildError = [none, none] := by decide

/-- Two same signal names, an unknown name, two same flag names (R142). -/
theorem test_refused_names :
    [{ toyProfile with signals := toyProfile.signals.dropLast ++ [("IRI", 7)] },
     { toyProfile with fetch0 := .names ["FOO"] },
     { miniProfile with flagNames := ["C", "Z", "N", "C"] }].map shapeCheck =
    [some .duplicateName, some .unknownSignal, some .flagNames] := by decide

/-- The log's entry 9: of TOY with empty bodies and `nsteps_decl = 1`, the first condition of R142's
table that holds is `body_too_long`. -/
theorem test_first_shape_condition :
    shapeCheck { toyProfile with
      ops := [(0, ⟨"LOAD", false, []⟩), (1, ⟨"HALT", false, []⟩)], nstepsDecl := 1 } =
    some .bodyTooLong := by decide

/-- Writing a chip: what the address reads as anyway is not listed. -/
theorem test_memory_write :
    Memory.write (fun _ => 0) (Memory.write (fun _ => 0) [] 5 7) 2 9 = [(2, 9), (5, 7)] ∧
    Memory.write (fun _ => 0) [(2, 9), (5, 7)] 5 0 = [(2, 9)] := by decide

/-! ## Witnesses: states and operands that meet the hypotheses of each statement -/

/-- The ROM of `P` loaded, with the address `A` on the lines. -/
abbrev at_ (P : Profile) (A : Nat) : State := State.reset.programmedWith P A

/-- A profile that is not one of the four: TOY under another name. -/
abbrev openProfile : Profile := { toyProfile with name := "OPEN" }

theorem witness_loaded (P : Profile) (A : Nat) : Loaded P (at_ P A) := ⟨rfl, rfl⟩

theorem toy_valid : Valid toyProfile := by decide
theorem ref_valid : Valid refProfile := by decide
theorem ref17_valid : Valid ref17Profile := by decide
theorem mini_valid : Valid miniProfile := by decide

/-- The loaded ROM of MINI with an address on the lines that the lines carry meets the invariant. -/
theorem mini_inv : (at_ miniProfile 0xD0).Inv := ⟨by decide, rfl, mini_valid, rfl, rfl, rfl, rfl, rfl⟩

theorem witness_DecodeInvertsEncode :
    [Instr.toyHalt 1 3, .refXUndef31 15 15 3, .ref17Undef96To127 31 15 15 3, .miniXjz 15 3 1].all
      Instr.wf = true := by decide

theorem witness_EveryAddressIsOneInstruction :
    15 < 2 ^ NamedProfile.toy.profile.W ∧ 0x7FFF < 2 ^ NamedProfile.ref.profile.W ∧
    0x1FFFF < 2 ^ NamedProfile.ref17.profile.W ∧ 255 < 2 ^ NamedProfile.mini.profile.W ∧
    (Instr.refXUndef31 15 15 3).wf = true ∧ (Instr.refXUndef31 15 15 3).slot.named = .ref ∧
    encode (.refXUndef31 15 15 3) = 0x7FFF := by decide

/-- The largest value of every field, and what the four formats give there. -/
theorem witness_AddressFormatsOfTheNamedProfiles :
    (1 < 2 ∧ 3 < 4 ∧ 15 < 16 ∧ 31 < 32 ∧ 127 < 128) ∧
    compose toyProfile.partition ⟨1, 1, 3, 0⟩ = 15 ∧
    compose refProfile.partition ⟨15, 31, 15, 3⟩ = 0x7FFF ∧
    compose ref17Profile.partition ⟨15, 127, 15, 3⟩ = 0x1FFFF ∧
    compose miniProfile.partition ⟨15, 1, 3, 1⟩ = 255 := by decide

theorem witness_DecomposeIsABijection :
    partitionCheck ref17Profile = none ∧ 0x1FFFF < 2 ^ ref17Profile.W ∧ 15 < 2 ^ ref17Profile.NF ∧
    127 < 2 ^ ref17Profile.NO ∧ 15 < 2 ^ ref17Profile.NS ∧ 3 < 2 ^ ref17Profile.NB := by decide

theorem witness_EveryAddressLandsInTheTable : Valid miniProfile ∧ 255 < 2 ^ miniProfile.W := by decide

theorem witness_ContiguousFieldsAreShiftAndMask : 0x7FFF < 2 ^ 15 ∧ 15 < 2 ^ 4 := by decide

/-- Both sides of the equivalence occur. -/
theorem witness_PartitionCheckPassesExactlyOnPartitions :
    partitionCheck miniProfile = none ∧ partitionCheck { miniProfile with W := 9 } ≠ none := by decide

theorem witness_CatalogCheckNamesAWrongEntry :
    catalogCheck refProfile = none ∧
    catalogCheck { toyProfile with signals := [("MAI", 0), ("HLT", 8)] } =
      some (.outOfRange "HLT" 8) ∧
    catalogCheck { toyProfile with signals := [("MAI", 0), ("IRO", 0)] } =
      some (.collision "MAI" "IRO" 0) := by decide

theorem witness_SigIsTheSignalsOwnBit :
    Valid refProfile ∧ ("PCO", 0) ∈ refProfile.signals ∧ ("EXC", 17) ∈ refProfile.signals ∧
    ∀ b, ("FOO", b) ∉ refProfile.signals :=
  ⟨ref_valid, by decide, by decide, fun b => by simp [refProfile, refSignals]⟩

theorem witness_WordAssertsExactlyItsNames :
    Valid refProfile ∧ ∀ n ∈ ["IRO", "MAI"], ∃ b, (n, b) ∈ refProfile.signals :=
  ⟨ref_valid, by simp [refProfile, refSignals]⟩

/-- MINI's bit 11, which no signal claims (R131, V11). -/
theorem witness_TableWordsHaveOnlyTheProfilesBits :
    Valid miniProfile ∧ ∀ w ∈ profileWords miniProfile, (miniProfile.word w).testBit 11 = false := by
  decide

theorem witness_ByteRoundTrip : 0x20060 < 2 ^ 18 ∧ nslices 18 ≤ 3 ∧ nslices 18 ≤ 4 := by decide

theorem witness_SliceClausesAgree :
    nslices 18 ≤ 3 ∧ ¬ nslices 18 ≤ 2 ∧ 0x3FFFF < 2 ^ 18 := by decide

theorem witness_SignalsReachTheirOwnCellBit :
    Valid refProfile ∧ (∀ n ∈ ["EXC", "ORI"], ∃ b, (n, b) ∈ refProfile.signals) ∧ 0 < 8 ∧ 7 < 8 :=
  ⟨ref_valid, by simp [refProfile, refSignals], by decide, by decide⟩

theorem witness_BaseTableRows :
    Valid refProfile ∧ 31 < 2 ^ refProfile.NO ∧ 3 < 2 ^ refProfile.NO ∧
    2 < (bodyAt refProfile 3).length ∧ 2 + (bodyAt refProfile 3).length ≤ 5 ∧ 15 < 2 ^ refProfile.NS := by
  decide

theorem witness_UndefinedOpcodeIsFetchOnly :
    Valid refProfile ∧ 15 < 2 ^ refProfile.NF ∧ 13 < 2 ^ refProfile.NO ∧ 15 < 2 ^ refProfile.NS ∧
    slotAt refProfile 13 = none ∧ 13 ∉ refProfile.extSlots ∧
    ∀ e ∈ refProfile.edits, e.opcode ≠ 13 := by decide

theorem witness_CommonFetchWords :
    Valid refProfile ∧ 15 < 2 ^ refProfile.NF ∧ 31 < 2 ^ refProfile.NO := by decide

/-- An edit that misses combination 0 and one that hits combination 1 of a small table. -/
theorem witness_FlagEditChangesOneWord :
    editHits ⟨1, 1, 0, 2, .value 9⟩ 0 = false ∧ editHits ⟨1, 1, 0, 2, .value 9⟩ 1 = true ∧
    ([[[1, 2, 3]], [[1, 2, 3]]] : ExpandedTable)[1]? = some [[1, 2, 3]] ∧
    ([[1, 2, 3]] : OpcodeTable)[0]? = some [1, 2, 3] ∧ 2 < [1, 2, 3].length := by decide

theorem witness_TheLastMatchingEditWins :
    Valid refProfile ∧ 15 < 2 ^ refProfile.NF ∧ 31 < 2 ^ refProfile.NO ∧ 15 < 2 ^ refProfile.NS := by
  decide

/-- The terminal step both at the floor and above it. -/
theorem witness_TerminalIsTheLastNonIdleStep :
    terminal [3, 4, 0, 0] < 3 ∧ terminal [3, 4, 5, 6] ≠ 2 := by decide

theorem witness_ClearExtendAtTheTerminalStepOnly :
    Valid miniProfile ∧ 15 < 2 ^ miniProfile.NF ∧ 1 < 2 ^ miniProfile.NO ∧ 3 < 2 ^ miniProfile.NS ∧
    ∃ E1, E1 = applyEdits miniProfile (replicateTable miniProfile (baseTable miniProfile)) :=
  ⟨mini_valid, by decide, by decide, by decide, _, rfl⟩

/-- TOY has no edits, no edit of REF names opcode 5, and no mask of MINI has bit 0. -/
theorem witness_FlagIndependence :
    (1 < 2 ^ toyProfile.NF ∧ toyProfile.edits = []) ∧
    (15 < 2 ^ refProfile.NF ∧ ∀ e ∈ refProfile.edits, e.opcode ≠ 5) ∧
    (15 < 2 ^ miniProfile.NF ∧ 0 < miniProfile.NF ∧
      ∀ e ∈ miniProfile.edits, e.mask.testBit 0 = false) := by decide

theorem witness_SplitHalvesConcatenate :
    Valid miniProfile ∧ splits miniProfile = true ∧
    (List.replicate 256 (0 : Byte)).length = 2 ^ miniProfile.W ∧
    (∃ lo hi, splitImage miniProfile (List.replicate 256 0) = (lo, hi)) ∧ 127 < 2 ^ (miniProfile.W - 1) :=
  ⟨mini_valid, by decide, List.length_replicate, ⟨_, _, rfl⟩, by decide⟩

/-- A split build and one that is not; images other than the profile's own. -/
theorem witness_RomAnswersWhatWasProgrammed :
    (Valid miniProfile ∧ splits miniProfile = true ∧
      (List.replicate 256 (7 : Byte)).length = 2 ^ miniProfile.W ∧ 255 < 2 ^ miniProfile.W) ∧
    (Valid toyProfile ∧ splits toyProfile = false ∧
      (List.replicate 16 (7 : Byte)).length = 2 ^ toyProfile.W ∧ 15 < 2 ^ toyProfile.W) :=
  ⟨⟨mini_valid, by decide, List.length_replicate, by decide⟩,
   ⟨toy_valid, by decide, List.length_replicate, by decide⟩⟩

theorem witness_ReadPortAnswersTheImage :
    Valid miniProfile ∧ Loaded miniProfile (at_ miniProfile 0) ∧ 0x7F < 2 ^ miniProfile.W ∧
    0x80 < 2 ^ miniProfile.W ∧ 0xFF < 2 ^ miniProfile.W ∧ splits miniProfile = true :=
  ⟨mini_valid, witness_loaded _ _, by decide, by decide, by decide, by decide⟩

theorem witness_BankDeliversTheControlWord :
    Valid ref17Profile ∧ 15 < 2 ^ ref17Profile.NF ∧ 127 < 2 ^ ref17Profile.NO ∧
    15 < 2 ^ ref17Profile.NS := by decide

theorem witness_BuildEndsWithTheRom : Valid miniProfile ∧ Valid openProfile := by decide

/-- A profile that fails each of the three checks first. -/
theorem witness_FirstFailingCheckEndsTheBuild :
    catalogCheck { toyProfile with signals := [("HLT", 8)] } = some (.outOfRange "HLT" 8) ∧
    (catalogCheck { toyProfile with W := 5 } = none ∧
      partitionCheck { toyProfile with W := 5 } = some .bitDropped) ∧
    (catalogCheck { refProfile with xc := none } = none ∧
      partitionCheck { refProfile with xc := none } = none ∧
      shapeCheck { refProfile with xc := none } = some .missingXc) := by decide

/-- At the start of a build, in the address loop and at the read port: the invariant and a next state. -/
theorem witness_StepKeepsTheInvariant :
    ((State.start refProfile).Inv ∧ ∃ t, step (State.start refProfile) = .next t) ∧
    (({ State.start toyProfile with
        stage := .addressLoop
        base := baseTable toyProfile
        expanded := expand toyProfile } : State).Inv ∧
      ∃ t, step { State.start toyProfile with
        stage := .addressLoop
        base := baseTable toyProfile
        expanded := expand toyProfile } = .next t) ∧
    ((at_ miniProfile 0xD0).Inv ∧ ∃ t, step (at_ miniProfile 0xD0) = .next t) :=
  ⟨⟨⟨by decide, rfl, rfl, rfl, rfl, rfl, rfl⟩, _, rfl⟩,
   ⟨⟨by decide, rfl, toy_valid, rfl, rfl, by decide, rfl, rfl⟩, _, rfl⟩,
   ⟨mini_inv, _, rfl⟩⟩

theorem witness_StepRunsTheDecodedInstruction :
    (at_ refProfile 0x4912).stage = .reading ∧
    (at_ refProfile 0x4912).profile = NamedProfile.ref.profile ∧
    decode .ref (at_ refProfile 0x4912).addressLines = .ok (.refXjn 4 2 2) :=
  ⟨rfl, rfl, rfl⟩

/-- An open profile, and a ROM that holds something else than the profile's image. -/
theorem witness_StepReadsTheAddressOnTheLines :
    (at_ openProfile 15).stage = .reading ∧ (at_ openProfile 15).rom = some (.one []) ∧
    (at_ openProfile 15).addressLines < 2 ^ (at_ openProfile 15).profile.W ∧
    ({ at_ openProfile 15 with rom := some (.one [(15, 7)]) } : State).rom = some (.one [(15, 7)]) :=
  ⟨rfl, rfl, by decide, rfl⟩

theorem witness_EveryInstructionCompletes :
    (Instr.ref17Undef96To127 31 15 15 3).wf = true ∧
    (at_ ref17Profile 0).profile = (Instr.ref17Undef96To127 31 15 15 3).slot.named.profile ∧
    (at_ ref17Profile 0).rom = some (.two [] []) := ⟨by decide, rfl, rfl⟩

theorem witness_EveryInstructionAnswersItsExpandedWord :
    (Instr.miniXjz 15 3 1).wf = true ∧
    Loaded (Instr.miniXjz 15 3 1).slot.named.profile (at_ miniProfile 0) :=
  ⟨by decide, witness_loaded _ _⟩

theorem witness_InstructionsChangeOnlyTheReadPort :
    ∃ t, exec (.toyHalt 1 2) (at_ toyProfile 0) = .next t := ⟨_, rfl⟩

theorem witness_TheRomIsImmutable :
    (at_ toyProfile 6).stage = .reading ∧ ∃ t, step (at_ toyProfile 6) = .next t := ⟨rfl, _, rfl⟩

theorem witness_NoReadPortBeforeTheBuildEnds : State.reset.rom = none := rfl

theorem witness_OnlyAFailedBuildStops :
    (State.start refProfile).Inv ∧ ∀ e, (State.start refProfile).stage ≠ .failed e :=
  ⟨⟨by decide, rfl, rfl, rfl, rfl, rfl, rfl⟩, fun _ h => nomatch h⟩

theorem witness_MiniImage : 0x7F < 256 ∧ 0xFF < 256 := by decide

theorem witness_RefExpandedTable : 15 < 16 ∧ 31 < 32 ∧ 15 < 16 := by decide

/-- The clauses meet at `0x8000`. -/
theorem witness_Ref17ExtendsRef :
    0x7FFF < 0x8000 ∧ 0x8000 ≤ 0x8000 ∧ 0x8000 < 0x20000 ∧ 0x1FFFF < 0x20000 := by decide

/-- The operands and the loaded ROM of the word statements of REF: largest field values. It serves
LoadAndStoreWords, AddAndSubWords, JumpOutHaltExtendWords, NopAndUndefinedWords, ConditionalJumpWords,
ExtendedConditionalJumpWords and UndefinedExtendedSlotWords. -/
theorem witness_words_of_ref :
    (15 < 16 ∧ 15 < 16 ∧ 3 < 4) ∧ Loaded refProfile (at_ refProfile 0x7FFF) :=
  ⟨by decide, witness_loaded _ _⟩

/-- The same for REF17, and for LeftoverOpcodeWords. -/
theorem witness_words_of_ref17 :
    (31 < 32 ∧ 15 < 16 ∧ 15 < 16 ∧ 3 < 4) ∧ Loaded ref17Profile (at_ ref17Profile 0x1FFFF) :=
  ⟨by decide, witness_loaded _ _⟩

theorem witness_ToyOpcodeWords : (1 < 2 ∧ 3 < 4) ∧ Loaded toyProfile (at_ toyProfile 15) :=
  ⟨by decide, witness_loaded _ _⟩

/-- For MiniConditionalJumpWords and the MINI clause of LoadAndStoreWords. -/
theorem witness_words_of_mini :
    (15 < 16 ∧ 3 < 4 ∧ 1 < 2) ∧ Loaded miniProfile (at_ miniProfile 255) :=
  ⟨by decide, witness_loaded _ _⟩

/-- A profile that passes, and profiles of the first and the last condition of the table. -/
theorem witness_ShapeCheckGivesTheFirstCondition :
    shapeCheck miniProfile = none ∧
    shapeCheck { toyProfile with signals := [("MAI", 0), ("MAI", 1)] } = some .duplicateName ∧
    shapeCheck { miniProfile with flagNames := ["C", "Z", "N", "C"] } = some .flagNames := by decide

theorem witness_ValidProfilesHaveTheirIntegers : Valid toyProfile ∧ toyProfile.W = 4 := by decide

/-- Once the ROM exists, and before; driven with values that fit the lines and with one that does not. -/
theorem witness_DrivingTheLinesKeepsTheInvariant :
    ((at_ miniProfile 0xD0).Inv ∧ (at_ miniProfile 0xD0).stage = .reading ∧
      0xFF < 2 ^ miniProfile.W ∧ ¬ 0x100 < 2 ^ miniProfile.W) ∧
    ((State.start refProfile).Inv ∧ (State.start refProfile).stage ≠ .reading) :=
  ⟨⟨mini_inv, rfl, by decide, by decide⟩, ⟨by decide, rfl, rfl, rfl, rfl, rfl, rfl⟩, by decide⟩

theorem witness_ReadingChangesNothing :
    (at_ miniProfile 0xD0).Inv ∧ (at_ miniProfile 0xD0).stage = .reading := ⟨mini_inv, rfl⟩

end Sys2Proof.Tests
end

section
/-! The statements about the state of the block (10_state.md): the rows of the opcode table as the decoder
finds them, what a step at the read port is, the invariant stage by stage, and the programmed ROM. -/

namespace Sys2Proof.Machine

/-! ### Addresses of the named profiles -/

/-- Compose uses of each field only the bits its address positions have room for (R100). -/
theorem compose_mod (p : Partition) (t : Fields) :
    compose p ⟨t.flags % 2 ^ p.flags.length, t.opcode % 2 ^ p.opcode.length,
      t.step % 2 ^ p.step.length, t.slice % 2 ^ p.slice.length⟩ = compose p t := by
  simp only [compose, scatter_mod]

/-- A composed address fits the lines, whatever the fields are (R31, R99, R100). -/
theorem compose_lt {P : Profile} (h : partitionCheck P = none) (t : Fields) :
    compose P.partition t < 2 ^ P.W := by
  obtain ⟨hlt, hnodup, -⟩ := partitionCheck_facts h
  rw [← compose_mod, compose_eq_scatter]
  · exact scatter_lt _ hnodup hlt
  all_goals exact Nat.mod_lt _ (Nat.two_pow_pos _)

/-- The fields of an address compose to it (R98, R100, R101). -/
theorem compose_decompose {P : Profile} (h : partitionCheck P = none) {A : Nat} (hA : A < 2 ^ P.W) :
    compose P.partition (decompose P.partition A) = A := by
  obtain ⟨-, hnodup, hall, -⟩ := partitionCheck_facts h
  rw [compose_eq_scatter _ _ (field_lt ..) (field_lt ..) (field_lt ..), packed_decompose]
  refine scatter_field hnodup fun b hb => hall b ?_
  exact (Nat.pow_lt_pow_iff_right Nat.one_lt_two).mp ((Nat.ge_two_pow_of_testBit hb).trans_lt hA)

/-- Every named profile passes the three checks (R20). -/
theorem valid_profile (n : NamedProfile) : Valid n.profile := by
  cases n <;> decide

/-- The address format of a named profile is a partition of its address bits (R49 to R52, R99). -/
theorem partitionCheck_profile (n : NamedProfile) : partitionCheck n.profile = none := by
  obtain ⟨-, hp, -⟩ := valid_parts (valid_profile n)
  exact hp

/-- The address of every instruction fits the lines of its profile (R31). -/
theorem encode_lt (i : Instr) : encode i < 2 ^ i.slot.named.profile.W :=
  compose_lt (partitionCheck_profile _) _

/-- An instruction built by a row of REF17 for a range of 32 opcodes is the slot of its opcode, the low five
bits being an operand of it (R51, R60). -/
theorem slot_of_ref17Ranges {o : Nat} {c : Nat → Nat → Nat → Nat → Instr} (ho : 32 ≤ o)
    (h : ref17Ranges[o / 32 - 1]? = some c) (f st k : Nat) :
    (c (o % 32) f st k).slot = ⟨.ref17, ⟨f, o, st, k⟩⟩ := by
  generalize hr : o / 32 - 1 = r at h
  obtain ⟨hlt, rfl⟩ := List.getElem?_eq_some_iff.mp h
  have hslot : (ref17Ranges[r] (o % 32) f st k).slot =
      ⟨.ref17, ⟨f, 32 * (r + 1) + o % 32, st, k⟩⟩ := by
    change r < 3 at hlt
    interval_cases r <;> rfl
  rw [hslot, show 32 * (r + 1) + o % 32 = o by omega]

/-- An instruction built by the row of opcode `o` is the slot `o` of that profile, with the operands it was
built with; TOY, whose rows have no slice operand, has slice 0 (R49, R56). -/
theorem slot_of_rowAt {n : NamedProfile} {o : Nat} {c : Nat → Nat → Nat → Instr}
    (h : rowAt n o = some c) (f st k : Nat) (hk : n = .toy → k = 0) :
    (c f st k).slot = ⟨n, ⟨f, o, st, k⟩⟩ := by
  cases n with
  | toy =>
    obtain ⟨hlt, rfl⟩ := List.getElem?_eq_some_iff.mp h
    obtain rfl := hk rfl
    change o < 2 at hlt
    interval_cases o <;> rfl
  | ref =>
    obtain ⟨hlt, rfl⟩ := List.getElem?_eq_some_iff.mp h
    change o < 32 at hlt
    interval_cases o <;> rfl
  | ref17 =>
    unfold rowAt at h
    by_cases ho : o < 32
    · obtain ⟨hlt, rfl⟩ := List.getElem?_eq_some_iff.mp ((if_pos ho).symm.trans h)
      interval_cases o <;> rfl
    · obtain ⟨d, hd, rfl⟩ := Option.map_eq_some_iff.mp ((if_neg ho).symm.trans h)
      exact slot_of_ref17Ranges (not_lt.mp ho) hd f st k
  | mini =>
    obtain ⟨hlt, rfl⟩ := List.getElem?_eq_some_iff.mp h
    change o < 2 at hlt
    interval_cases o <;> rfl

/-- A decoded instruction is the slot its address names (R56, R98). -/
theorem slot_of_decode {n : NamedProfile} {A : Nat} {i : Instr} (h : decode n A = .ok i) :
    i.slot = ⟨n, decompose n.profile.partition A⟩ := by
  have hA := lt_of_decode h
  simp only [decode, if_pos hA] at h
  cases hrow : rowAt n (decompose n.profile.partition A).opcode with
  | none => simp [hrow] at h
  | some c =>
    obtain rfl : c _ _ _ = i := by simpa [hrow] using h
    exact slot_of_rowAt hrow _ _ _ fun hn => by subst hn; rfl

/-- A decoded instruction encodes to the address it was decoded from (R101). -/
theorem encode_of_decode {n : NamedProfile} {A : Nat} {i : Instr} (h : decode n A = .ok i) :
    encode i = A := by
  rw [encode, slot_of_decode h]
  exact compose_decompose (partitionCheck_profile n) (lt_of_decode h)

/-! ### Steps at the read port -/

/-- The address lines of a named profile select the instruction they decode to (R26). -/
theorem fetch_of_decode {s : State} {n : NamedProfile} {i : Instr} (hP : s.profile = n.profile)
    (hi : decode n s.addressLines = .ok i) : s.fetch = some i := by
  simp [State.fetch, hP, named?_profile, hi, Except.toOption]

/-- A step at the read port runs the instruction that was fetched. -/
theorem step_of_fetch {s : State} {i : Instr} (hst : s.stage = .reading) (hi : s.fetch = some i) :
    step s = exec i s := by
  simp [step, hst, hi]

/-- Every step at the read port, of a named profile or an open one, is a read of the address on the lines
(R120, R157). -/
theorem step_of_reading {s : State} (hst : s.stage = .reading) : step s = s.readAt s.addressLines := by
  cases hf : s.fetch with
  | none => simp [step, hst, hf]
  | some i =>
    obtain ⟨n, -, hd⟩ := fetch_some hf
    rw [step_of_fetch hst hf, exec_eq_readAt, encode_of_decode hd]

/-- A build that has failed answers no next state (R141, R147). -/
theorem step_of_failed {s : State} {e : BuildError} (hst : s.stage = .failed e) :
    step s = .fault (.buildError e) := by
  simp [step, hst]

/-- Settles O34: the address lines fetch the decoded instruction. -/
theorem stepRunsTheDecodedInstruction : Obligations.StepRunsTheDecodedInstruction :=
  fun _ _ _ hst hP hi => step_of_fetch hst (fetch_of_decode hP hi)

/-- Settles O36: every meaning is a read at the instruction's own address, which fits the lines whatever
the operands are. -/
theorem everyInstructionCompletes : Obligations.EveryInstructionCompletes := by
  intro i s r _ hP hr
  rw [exec_eq_readAt]
  exact readAt_of_rom hr (hP ▸ encode_lt i)

/-- Settles O39: a step at the read port is a read of the address on the lines. -/
theorem theRomIsImmutable : Obligations.TheRomIsImmutable := by
  intro s t hst h
  rw [step_of_reading hst] at h
  obtain ⟨r, -, -, rfl⟩ := readAt_next_iff.mp h
  exact ⟨rfl, rfl, hst, rfl⟩

/-! ### Valid profiles -/

/-- Settles O32, by running the three checks on each of the four. -/
theorem namedProfilesAreValid : Obligations.NamedProfilesAreValid := valid_profile

/-- Settles O58: two of the integers are positive by type, the other two by the checks. -/
theorem validProfilesHaveTheirIntegers : Obligations.ValidProfilesHaveTheirIntegers := by
  intro P hv
  obtain ⟨-, -, hs⟩ := valid_parts hv
  exact ⟨P.wordWidth.pos, P.opcodeCount.pos, width_pos hv, (shapeCheck_facts hs).steps⟩

/-- A failure of CatalogCheck is the error of the build (R146). -/
theorem buildError_of_catalog {P : Profile} {r : CatalogReason} (h : catalogCheck P = some r) :
    buildError P = some (.signalCollisionError r) := by
  simp [buildError, h]

/-- A failure of PartitionCheck is the error of the build where CatalogCheck passed (R146). -/
theorem buildError_of_partition {P : Profile} {r : PartitionReason} (hc : catalogCheck P = none)
    (h : partitionCheck P = some r) : buildError P = some (.addressPartitionError r) := by
  simp [buildError, hc, h]

/-- Where the first two checks passed, the error of the build is ShapeCheck's (R146). -/
theorem buildError_of_passed {P : Profile} (hc : catalogCheck P = none) (hp : partitionCheck P = none) :
    buildError P = (shapeCheck P).map .profileRefused := by
  simp [buildError, hc, hp]

/-! ### The invariant, stage by stage -/

/-- The part of the invariant that every stage has: the lines carry what fits them, and the output follows
them (R26, R30, R31). -/
def State.PortOk (s : State) : Prop :=
  s.addressLines < 2 ^ s.profile.W ∧ s.dataOut = dataAt s.profile s.rom s.addressLines

section Stages
variable {s : State}

theorem inv_checkCatalog (hst : s.stage = .checkCatalog) : s.Inv ↔ s.PortOk ∧ NothingBuilt s := by
  simp only [State.Inv, State.PortOk, hst, and_assoc]

theorem inv_checkPartition (hst : s.stage = .checkPartition) :
    s.Inv ↔ s.PortOk ∧ NothingBuilt s ∧ catalogCheck s.profile = none := by
  simp only [State.Inv, State.PortOk, hst, and_assoc]

theorem inv_checkShape (hst : s.stage = .checkShape) : s.Inv ↔
    s.PortOk ∧ NothingBuilt s ∧ catalogCheck s.profile = none ∧ partitionCheck s.profile = none := by
  simp only [State.Inv, State.PortOk, hst, and_assoc]

theorem inv_makeBase (hst : s.stage = .makeBase) :
    s.Inv ↔ s.PortOk ∧ NothingBuilt s ∧ Valid s.profile := by
  simp only [State.Inv, State.PortOk, hst, and_assoc]

theorem inv_makeExpanded (hst : s.stage = .makeExpanded) : s.Inv ↔
    s.PortOk ∧ Valid s.profile ∧ s.base = baseTable s.profile ∧ s.expanded = [] ∧ s.addr = 0 ∧
      s.image = [] ∧ s.rom = none := by
  simp only [State.Inv, State.PortOk, hst, and_assoc]

theorem inv_addressLoop (hst : s.stage = .addressLoop) : s.Inv ↔
    s.PortOk ∧ Valid s.profile ∧ s.base = baseTable s.profile ∧ s.expanded = expand s.profile ∧
      s.addr ≤ 2 ^ s.profile.W ∧ s.image = (List.range s.addr).map (imageByte s.profile) ∧
      s.rom = none := by
  simp only [State.Inv, State.PortOk, hst, and_assoc]

theorem inv_reading (hst : s.stage = .reading) : s.Inv ↔
    s.PortOk ∧ Valid s.profile ∧ s.base = [] ∧ s.expanded = [] ∧ s.addr = 2 ^ s.profile.W ∧
      s.image = [] ∧ s.rom = some (Rom.ofProfile s.profile) := by
  simp only [State.Inv, State.PortOk, hst, and_assoc]

theorem inv_failed {e : BuildError} (hst : s.stage = .failed e) :
    s.Inv ↔ s.PortOk ∧ NothingBuilt s ∧ buildError s.profile = some e := by
  simp only [State.Inv, State.PortOk, hst, and_assoc]

end Stages

/-- At the read port the profile is valid and the ROM is its canonical one (R23, R156). -/
theorem loaded_of_inv {s : State} (h : s.Inv) (hst : s.stage = .reading) :
    Valid s.profile ∧ s.rom = some (Rom.ofProfile s.profile) := by
  obtain ⟨-, hv, -, -, -, -, hrom⟩ := (inv_reading hst).mp h
  exact ⟨hv, hrom⟩

/-- Before the build has ended, and after a failed one, there is no ROM (R30, R44, R141). -/
theorem rom_none_of_inv {s : State} (h : s.Inv) (hst : s.stage ≠ .reading) : s.rom = none := by
  have rom_none : NothingBuilt s → s.rom = none := fun ⟨_, _, _, _, hrom⟩ => hrom
  cases hs : s.stage with
  | checkCatalog => exact rom_none ((inv_checkCatalog hs).mp h).2
  | checkPartition => exact rom_none ((inv_checkPartition hs).mp h).2.1
  | checkShape => exact rom_none ((inv_checkShape hs).mp h).2.1
  | makeBase => exact rom_none ((inv_makeBase hs).mp h).2.1
  | makeExpanded =>
    obtain ⟨-, -, -, -, -, -, hrom⟩ := (inv_makeExpanded hs).mp h
    exact hrom
  | addressLoop =>
    obtain ⟨-, -, -, -, -, -, hrom⟩ := (inv_addressLoop hs).mp h
    exact hrom
  | reading => exact absurd hs hst
  | failed e => exact rom_none ((inv_failed hs).mp h).2.1

/-! ### What keeps the invariant -/

/-- Driving the lines keeps the invariant: its other parts do not speak of them. -/
theorem inv_drive {s : State} (h : s.Inv) (A : Nat) : (s.drive A).Inv := by
  obtain ⟨-, -, hstage⟩ := h
  exact ⟨drive_lt s A, rfl, hstage⟩

/-- A read that answers the ROM's byte keeps the invariant. -/
theorem inv_of_readAt {s t : State} {A : Nat} (h : s.Inv) (ht : s.readAt A = .next t) : t.Inv := by
  obtain ⟨r, hr, hA, rfl⟩ := readAt_next_iff.mp ht
  obtain ⟨-, -, hstage⟩ := h
  exact ⟨hA, by simp [hr, dataAt_of_lt r hA], hstage⟩

/-- A check keeps the invariant when what its stage claims beyond the check is there: the next stage's claim
where it passes, the error of the build where it fails (R141). -/
theorem inv_checked {s : State} {g : Stage} {e : Option BuildError} (hport : s.PortOk)
    (hn : NothingBuilt s) (hpass : e = none → (s.atStage g).Inv)
    (hfail : ∀ x, e = some x → buildError s.profile = some x) : (s.checked e g).Inv := by
  cases e with
  | none => exact hpass rfl
  | some x => exact (inv_failed rfl).mpr ⟨hport, hn, hfail x rfl⟩

theorem inv_step_checkCatalog {s : State} (hst : s.stage = .checkCatalog) (h : s.Inv) :
    s.buildStep.Inv := by
  obtain ⟨hport, hn⟩ := (inv_checkCatalog hst).mp h
  rw [buildStep_checkCatalog hst]
  refine inv_checked hport hn (fun hpass => ?_) fun x hx => ?_
  · exact (inv_checkPartition rfl).mpr ⟨hport, hn, Option.map_eq_none_iff.mp hpass⟩
  · obtain ⟨r, hr, rfl⟩ := Option.map_eq_some_iff.mp hx
    exact buildError_of_catalog hr

theorem inv_step_checkPartition {s : State} (hst : s.stage = .checkPartition) (h : s.Inv) :
    s.buildStep.Inv := by
  obtain ⟨hport, hn, hc⟩ := (inv_checkPartition hst).mp h
  rw [buildStep_checkPartition hst]
  refine inv_checked hport hn (fun hpass => ?_) fun x hx => ?_
  · exact (inv_checkShape rfl).mpr ⟨hport, hn, hc, Option.map_eq_none_iff.mp hpass⟩
  · obtain ⟨r, hr, rfl⟩ := Option.map_eq_some_iff.mp hx
    exact buildError_of_partition hc hr

theorem inv_step_checkShape {s : State} (hst : s.stage = .checkShape) (h : s.Inv) :
    s.buildStep.Inv := by
  obtain ⟨hport, hn, hc, hp⟩ := (inv_checkShape hst).mp h
  rw [buildStep_checkShape hst, ← buildError_of_passed hc hp]
  exact inv_checked hport hn (fun hpass => (inv_makeBase rfl).mpr ⟨hport, hn, hpass⟩) fun _ => id

theorem inv_step_makeBase {s : State} (hst : s.stage = .makeBase) (h : s.Inv) : s.buildStep.Inv := by
  obtain ⟨hport, ⟨-, hexp, haddr, himg, hrom⟩, hv⟩ := (inv_makeBase hst).mp h
  rw [buildStep_makeBase hst]
  exact (inv_makeExpanded rfl).mpr ⟨hport, hv, rfl, hexp, haddr, himg, hrom⟩

theorem inv_step_makeExpanded {s : State} (hst : s.stage = .makeExpanded) (h : s.Inv) :
    s.buildStep.Inv := by
  obtain ⟨hport, hv, hbase, -, -, -, hrom⟩ := (inv_makeExpanded hst).mp h
  have hexp : s.makeExpanded.expanded = expand s.profile := by
    rw [makeExpanded_expanded, hbase, expand]
  rw [buildStep_makeExpanded hst]
  exact (inv_addressLoop rfl).mpr ⟨hport, hv, hbase, hexp, Nat.zero_le _, rfl, hrom⟩

/-- An iteration of the address loop emits the byte of the closed form (R113, R117). -/
theorem inv_emit {s : State} (hst : s.stage = .addressLoop) (h : s.Inv)
    (hlt : s.addr < 2 ^ s.profile.W) : (s.emit (romByte s.profile s.expanded s.addr)).Inv := by
  obtain ⟨hport, hv, hbase, hexp, -, himg, hrom⟩ := (inv_addressLoop hst).mp h
  refine (inv_addressLoop (s := s.emit _) hst).mpr ⟨hport, hv, hbase, hexp, hlt, ?_, hrom⟩
  rw [emit_image, emit_addr, emit_profile, himg, hexp, List.range_succ, List.map_append]
  rfl

/-- The end of the address loop programs the finished image, which leaves the canonical ROM (R155, R156). -/
theorem inv_finish {s : State} (hst : s.stage = .addressLoop) (h : s.Inv)
    (hge : 2 ^ s.profile.W ≤ s.addr) : s.finish.Inv := by
  obtain ⟨⟨hlines, -⟩, hv, -, -, hle, himg, -⟩ := (inv_addressLoop hst).mp h
  have haddr : s.addr = 2 ^ s.profile.W := le_antisymm hle hge
  have hrom : Rom.program s.profile s.image = Rom.ofProfile s.profile := by
    rw [himg, haddr]
    exact program_build hv
  exact (inv_reading rfl).mpr ⟨⟨hlines, rfl⟩, hv, rfl, rfl, haddr, rfl, congrArg some hrom⟩

theorem inv_step_addressLoop {s : State} (hst : s.stage = .addressLoop) (h : s.Inv) :
    s.buildStep.Inv := by
  rw [buildStep_addressLoop hst]
  rcases Nat.lt_or_ge s.addr (2 ^ s.profile.W) with hlt | hge
  · rw [loopStep_of_lt hlt]
    exact inv_emit hst h hlt
  · rw [loopStep_of_ge hge]
    exact inv_finish hst h hge

/-- Every step of Run keeps the invariant (R155). -/
theorem inv_buildStep {s : State} (h : s.Inv) : s.buildStep.Inv := by
  cases hst : s.stage with
  | checkCatalog => exact inv_step_checkCatalog hst h
  | checkPartition => exact inv_step_checkPartition hst h
  | checkShape => exact inv_step_checkShape hst h
  | makeBase => exact inv_step_makeBase hst h
  | makeExpanded => exact inv_step_makeExpanded hst h
  | addressLoop => exact inv_step_addressLoop hst h
  | reading => simpa [State.buildStep, hst] using h
  | failed e => simpa [State.buildStep, hst] using h

/-- Settles O30: a step is a read at the port, a stop after a failed build, or a step of Run. -/
theorem stepKeepsTheInvariant : Obligations.StepKeepsTheInvariant := by
  intro s t h ht
  by_cases hread : s.stage = .reading
  · rw [step_of_reading hread] at ht
    exact inv_of_readAt h ht
  by_cases hfail : ∃ e, s.stage = .failed e
  · obtain ⟨e, he⟩ := hfail
    rw [step_of_failed he] at ht
    cases ht
  · rw [step_of_building hread (not_exists.mp hfail)] at ht
    cases ht
    exact inv_buildStep h

/-- Settles O59: the output is the canonical ROM's byte at the present address, or absent with the ROM. -/
theorem drivingTheLinesKeepsTheInvariant : Obligations.DrivingTheLinesKeepsTheInvariant := by
  intro s A h
  refine ⟨inv_drive h A, rfl, ⟨rfl, rfl, rfl, rfl, rfl, rfl, rfl⟩, fun hst => ?_, fun hst => ?_⟩
  · obtain ⟨hv, hrom⟩ := loaded_of_inv h hst
    have hA : A % 2 ^ s.profile.W < 2 ^ s.profile.W := drive_lt s A
    rw [drive_dataOut, hrom, dataAt_of_lt _ hA, read_ofProfile hv hA]
  · rw [drive_dataOut, rom_none_of_inv h hst, dataAt_none]

/-! ### The programmed ROM -/

/-- A chip programmed from address 0 on holds the programmed bytes (R156). -/
theorem read_program_zero {u : Nat → Byte} {bs : List Byte} {x : Nat} (hx : x < bs.length) :
    Memory.read u (Memory.program u [] 0 bs) x = bs.getD x 0 := by
  rw [read_program (n := bs.length) nil_wf 0 bs (by omega), if_pos ⟨by omega, by omega⟩, Nat.sub_zero]

/-- The byte sequence of a chip is what was programmed (R29). -/
theorem map_read_program {u : Nat → Byte} {bs : List Byte} {n : Nat} (hn : bs.length = n) :
    (List.range n).map (Memory.read u (Memory.program u [] 0 bs)) = bs := by
  subst hn
  refine List.ext_getElem (by simp) fun x _ hx => ?_
  rw [List.getElem_map, List.getElem_range, read_program_zero hx, List.getD_eq_getElem _ _ hx]

section Halves
variable {P : Profile} {image : List Byte}

/-- The top address bit selects the upper half (R118, R120). -/
theorem testBit_top_iff {A : Nat} (hW : 0 < P.W) (hA : A < 2 ^ P.W) :
    A.testBit (P.W - 1) = true ↔ splitPoint P ≤ A := by
  rw [testBit_top hW hA, decide_eq_true_iff, splitPoint]

/-- Each half of an image of `2^W` bytes has one byte for every address of its chip (R118). -/
theorem splitImage_length (hW : 0 < P.W) (hl : image.length = 2 ^ P.W) :
    (splitImage P image).1.length = splitPoint P ∧ (splitImage P image).2.length = splitPoint P := by
  have := two_halves hW
  simp only [splitImage, List.length_take, List.length_drop]
  omega

/-- A ROM of one chip answers the image (R120). -/
theorem read_program_one (hs : splits P = false) (hl : image.length = 2 ^ P.W) {A : Nat}
    (hA : A < 2 ^ P.W) : (Rom.program P image).read P A = image.getD A 0 := by
  rw [Rom.program, if_neg (by simp [hs])]
  exact read_program_zero (hl ▸ hA)

/-- A ROM of two chips answers the image: the top address bit selects the half, the other bits the byte of
the half (R118, R120). -/
theorem read_program_two (hs : splits P = true) (hW : 0 < P.W) (hl : image.length = 2 ^ P.W) {A : Nat}
    (hA : A < 2 ^ P.W) : (Rom.program P image).read P A = image.getD A 0 := by
  have h2 := two_halves hW
  obtain ⟨hlo, hhi⟩ := splitImage_length hW hl
  simp only [Rom.program, if_pos hs, Rom.read, testBit_top_iff hW hA]
  by_cases htop : splitPoint P ≤ A
  · rw [if_pos htop, Nat.mod_eq_sub_mod htop, Nat.mod_eq_of_lt (by omega), read_program_zero (by omega)]
    simp only [splitImage, List.getD_eq_getElem?_getD, List.getElem?_drop, Nat.add_sub_cancel' htop]
  · rw [if_neg htop, Nat.mod_eq_of_lt (by omega), read_program_zero (by omega)]
    simp only [splitImage, List.getD_eq_getElem?_getD, List.getElem?_take, if_pos (not_le.mp htop)]

/-- What is handed to the renderer of a programmed ROM is the image or its two halves (R29, R118). -/
theorem sequences_program (hW : 0 < P.W) (hl : image.length = 2 ^ P.W) :
    (Rom.program P image).sequences P =
      if splits P then [(splitImage P image).1, (splitImage P image).2] else [image] := by
  obtain ⟨hlo, hhi⟩ := splitImage_length hW hl
  unfold Rom.program
  split
  · simp only [Rom.sequences, map_read_program hlo, map_read_program hhi]
  · simp only [Rom.sequences, map_read_program hl]

end Halves

/-- Settles O25, for one chip and for two. -/
theorem romAnswersWhatWasProgrammed : Obligations.RomAnswersWhatWasProgrammed := by
  intro P image hv hl
  have hW := width_pos hv
  refine ⟨rom_program_wf P (fun _ => hW) image hl, fun A hA => ?_, sequences_program hW hl⟩
  cases hs : splits P with
  | false => exact read_program_one hs hl hA
  | true => exact read_program_two hs hW hl hA

end Sys2Proof.Machine
end

section
/-! The statements about the memory of the block (20_memory.md): the frame of an instruction, reads that are
repeated, and the port that is missing before the build ends. -/

namespace Sys2Proof.Machine

/-! ### The frame of an instruction -/

/-- Everything an instruction can do: it answers exactly where a ROM exists and its own address has lines,
with the byte there (R38, R44, R120). -/
theorem exec_next_iff {i : Instr} {s t : State} :
    exec i s = .next t ↔ ∃ r, s.rom = some r ∧ encode i < 2 ^ s.profile.W ∧
      t = s.answered (encode i) (r.read s.profile (encode i)) := by
  rw [exec_eq_readAt, readAt_next_iff]

/-- Settles O38: what an instruction answers is the state with another address and output, and the ROM of
that state is the one it began with. -/
theorem instructionsChangeOnlyTheReadPort : Obligations.InstructionsChangeOnlyTheReadPort := by
  intro i s t h
  obtain ⟨r, hr, -, rfl⟩ := exec_next_iff.mp h
  exact ⟨⟨rfl, rfl, rfl, rfl, rfl, rfl⟩, rfl, r, r, hr, hr, fun _ => rfl, fun _ _ _ => rfl, rfl⟩

/-- Settles O40: every instruction is a read, and a read needs a ROM. -/
theorem noReadPortBeforeTheBuildEnds : Obligations.NoReadPortBeforeTheBuildEnds := by
  intro i s h
  rw [exec_eq_readAt]
  exact readAt_of_no_rom _ h

/-! ### Reads that are repeated -/

section Runs
variable {M : Host.Core} {s t : M.State}

/-- A run goes on from the answer of its first step. -/
theorem run_succ_of_next (h : M.step s = .next t) (k : Nat) : M.run (k + 1) s = M.run k t := by
  rw [Host.Core.run, h]

/-- A state that a step answers with itself stays for any number of steps. -/
theorem run_of_step_self (h : M.step s = .next s) (k : Nat) : M.run k s = .next s := by
  induction k with
  | zero => rfl
  | succ k ih => rw [run_succ_of_next h, ih]

end Runs

/-- The answer that is already at the port changes nothing. -/
theorem answered_self {s : State} {b : Byte} (h : s.dataOut = some b) :
    s.answered s.addressLines b = s := by
  unfold State.answered
  rw [← h]

/-- At the read port the output is the byte of the ROM at the address on the lines already, so a step
answers the state it began with (R38). -/
theorem step_reading_self {s : State} (h : s.Inv) (hst : s.stage = .reading) : step s = .next s := by
  obtain ⟨⟨hA, hout⟩, -⟩ := (inv_reading hst).mp h
  obtain ⟨-, hrom⟩ := loaded_of_inv h hst
  rw [hrom, dataAt_of_lt _ hA] at hout
  rw [step_of_reading hst, readAt_of_rom hrom hA, answered_self hout]

/-- Settles O60: the state at the read port is a fixed point of the step. -/
theorem readingChangesNothing : Obligations.ReadingChangesNothing := by
  intro s k h hst
  have hself := step_reading_self h hst
  exact ⟨hself, run_of_step_self (M := core) hself k⟩

end Sys2Proof.Machine
end

section
/-! The statements about the encoding (30_encoding.md): Compose and Decompose on fields that fit, the rows of
the opcode table as encoder and decoder use them, the four address formats, and the undefined opcodes. -/

namespace Sys2Proof.Machine

/-! ### Fields that fit their positions -/

/-- Every field is below two to the number of its address positions (R31, R48). -/
structure Fields.Fits (p : Partition) (t : Fields) : Prop where
  flags : t.flags < 2 ^ p.flags.length
  opcode : t.opcode < 2 ^ p.opcode.length
  step : t.step < 2 ^ p.step.length
  slice : t.slice < 2 ^ p.slice.length

/-- What Decompose reads fits (R98, R102). -/
theorem decompose_fits (p : Partition) (A : Nat) : (decompose p A).Fits p :=
  ⟨field_lt .., field_lt .., field_lt .., field_lt ..⟩

/-- Fields that fit are read back from the address they compose to (R101). -/
theorem decompose_compose {P : Profile} (h : partitionCheck P = none) {t : Fields}
    (ht : t.Fits P.partition) : decompose P.partition (compose P.partition t) = t := by
  obtain ⟨-, hnodup, -⟩ := partitionCheck_facts h
  obtain ⟨hf, ho, hs, hk⟩ := ht
  refine packed_inj (field_lt ..) (field_lt ..) (field_lt ..) hf ho hs ?_
  rw [packed_decompose, compose_eq_scatter _ _ hf ho hs, field_scatter _ hnodup,
    Nat.mod_eq_of_lt (packed_lt hf ho hs hk)]

/-- The address bit at position `j` of a field is bit `j` of the field's value (R97). -/
theorem testBit_of_field {A v : Nat} {bits : List Nat} (h : field A bits = v) {j b : Nat}
    (hb : bits[j]? = some b) : A.testBit b = v.testBit j := by
  rw [← h, testBit_field, hb, Option.map_some, Option.getD_some]

/-! ### The rows of the opcode table -/

/-- An address decodes to the row of its opcode field, with the other fields as operands (R56, R98). -/
theorem decode_eq_ok_iff {n : NamedProfile} {A : Nat} {i : Instr} :
    decode n A = .ok i ↔ A < 2 ^ n.profile.W ∧
      ∃ c, rowAt n (decompose n.profile.partition A).opcode = some c ∧
        c (decompose n.profile.partition A).flags (decompose n.profile.partition A).step
          (decompose n.profile.partition A).slice = i := by
  unfold decode
  by_cases hA : A < 2 ^ n.profile.W
  · cases hrow : rowAt n (decompose n.profile.partition A).opcode <;> simp [hA, hrow]
  · simp [hA]

/-- Every value of the opcode field has a row (R56, R57, R60). -/
theorem exists_row (n : NamedProfile) {o : Nat} (ho : o < 2 ^ n.profile.NO) :
    ∃ c, rowAt n o = some c := by
  cases n with
  | toy => exact ⟨_, List.getElem?_eq_getElem (l := toySlots) ho⟩
  | ref => exact ⟨_, List.getElem?_eq_getElem (l := refSlots) ho⟩
  | ref17 =>
    change o < 128 at ho
    by_cases h : o < 32
    · exact ⟨_, (if_pos h).trans (List.getElem?_eq_getElem (l := ref17Slots) h)⟩
    · have hr : o / 32 - 1 < ref17Ranges.length := by
        change o / 32 - 1 < 3
        omega
      exact ⟨_, (if_neg h).trans (congrArg _ (List.getElem?_eq_getElem hr))⟩
  | mini => exact ⟨_, List.getElem?_eq_getElem (l := miniSlots) ho⟩

/-- The operand widths of TOY are those of its address format (R49). -/
theorem toyFieldsOk_iff {f o st : Nat} (ho : o < 2) :
    toyFieldsOk f st = true ↔ Fields.Fits toyPartition ⟨f, o, st, 0⟩ := by
  simp only [toyFieldsOk, Bool.and_eq_true, decide_eq_true_iff]
  exact ⟨fun ⟨hf, hs⟩ => ⟨hf, ho, hs, Nat.one_pos⟩, fun h => ⟨h.flags, h.step⟩⟩

/-- The operand widths of REF and REF17 are those of their address formats, which differ in the opcode field
only (R50, R51). -/
theorem refFieldsOk_iff {p : Partition} (hp : p = refPartition ∨ p = ref17Partition) {f o st k : Nat}
    (ho : o < 2 ^ p.opcode.length) : refFieldsOk f st k = true ↔ Fields.Fits p ⟨f, o, st, k⟩ := by
  simp only [refFieldsOk, Bool.and_eq_true, decide_eq_true_iff]
  rcases hp with rfl | rfl <;>
    exact ⟨fun ⟨⟨hf, hs⟩, hk⟩ => ⟨hf, ho, hs, hk⟩, fun h => ⟨⟨h.flags, h.step⟩, h.slice⟩⟩

/-- The operand widths of MINI are those of its address format (R52). -/
theorem miniFieldsOk_iff {f o st k : Nat} (ho : o < 2) :
    miniFieldsOk f st k = true ↔ Fields.Fits miniPartition ⟨f, o, st, k⟩ := by
  simp only [miniFieldsOk, Bool.and_eq_true, decide_eq_true_iff]
  exact ⟨fun ⟨⟨hf, hs⟩, hk⟩ => ⟨hf, ho, hs, hk⟩, fun h => ⟨⟨h.flags, h.step⟩, h.slice⟩⟩

/-- An instruction built by a row of REF17 for a range of 32 opcodes is well-formed exactly when its low
opcode bits and its fields are in their ranges (R51, R60). -/
theorem wf_of_ref17Ranges {r : Nat} {c : Nat → Nat → Nat → Nat → Instr} (h : ref17Ranges[r]? = some c)
    (low f st k : Nat) : (c low f st k).wf = rangeFieldsOk low f st k := by
  obtain ⟨hlt, rfl⟩ := List.getElem?_eq_some_iff.mp h
  change r < 3 at hlt
  interval_cases r <;> rfl

/-- An instruction built by the row of opcode `o` is well-formed exactly when its fields fit the address
format of its profile; TOY has no slice field (R48 to R52). -/
theorem wf_iff_of_rowAt {n : NamedProfile} {o : Nat} {c : Nat → Nat → Nat → Instr}
    (h : rowAt n o = some c) (ho : o < 2 ^ n.profile.NO) (f st k : Nat) (hk : n = .toy → k = 0) :
    (c f st k).wf = true ↔ Fields.Fits n.profile.partition ⟨f, o, st, k⟩ := by
  cases n with
  | toy =>
    obtain ⟨hlt, rfl⟩ := List.getElem?_eq_some_iff.mp h
    obtain rfl := hk rfl
    change o < 2 at hlt
    interval_cases o <;> exact toyFieldsOk_iff hlt
  | ref =>
    obtain ⟨hlt, rfl⟩ := List.getElem?_eq_some_iff.mp h
    change o < 32 at hlt
    interval_cases o <;> exact refFieldsOk_iff (.inl rfl) ho
  | ref17 =>
    unfold rowAt at h
    by_cases hlow : o < 32
    · obtain ⟨hlt, rfl⟩ := List.getElem?_eq_some_iff.mp ((if_pos hlow).symm.trans h)
      interval_cases o <;> exact refFieldsOk_iff (.inr rfl) ho
    · obtain ⟨d, hd, rfl⟩ := Option.map_eq_some_iff.mp ((if_neg hlow).symm.trans h)
      have hmod : o % 32 < 32 := Nat.mod_lt _ (by decide)
      rw [wf_of_ref17Ranges hd, rangeFieldsOk, decide_eq_true hmod, Bool.true_and]
      exact refFieldsOk_iff (.inr rfl) ho
  | mini =>
    obtain ⟨hlt, rfl⟩ := List.getElem?_eq_some_iff.mp h
    change o < 2 at hlt
    interval_cases o <;> exact miniFieldsOk_iff hlt

/-- The rows of TOY stand for slice 0, the only one it has (R49). -/
theorem slice_of_toy {i : Instr} (h : i.slot.named = .toy) : i.slot.fields.slice = 0 := by
  cases i with
  | toyLoad | toyHalt => rfl
  | _ => cases h

/-- A well-formed instruction is its own row, with fields that fit (R48, R56). -/
theorem row_of_wf {i : Instr} (h : i.wf = true) :
    i.slot.fields.Fits i.slot.named.profile.partition ∧
      ∃ c, rowAt i.slot.named i.slot.fields.opcode = some c ∧
        c i.slot.fields.flags i.slot.fields.step i.slot.fields.slice = i := by
  obtain ⟨ho, c, hrow, hc⟩ := Laws.SlotInTable.every_row i h
  exact ⟨(wf_iff_of_rowAt hrow ho _ _ _ slice_of_toy).mp (hc.symm ▸ h), c, hrow, hc⟩

/-- The fields of a well-formed instruction are read back from its address (R101). -/
theorem decompose_encode {i : Instr} (h : i.wf = true) :
    decompose i.slot.named.profile.partition (encode i) = i.slot.fields :=
  decompose_compose (partitionCheck_profile _) (row_of_wf h).1

/-- A decoded instruction is well-formed: its operands are fields of an address (R48, R98). -/
theorem wf_of_decode {n : NamedProfile} {A : Nat} {i : Instr} (h : decode n A = .ok i) :
    i.wf = true := by
  obtain ⟨-, c, hrow, rfl⟩ := decode_eq_ok_iff.mp h
  have hfits := decompose_fits n.profile.partition A
  refine (wf_iff_of_rowAt hrow hfits.opcode _ _ _ fun hn => ?_).mpr hfits
  subst hn
  rfl

/-- Settles O1: the fields come back from the address, and the row of the opcode rebuilds the instruction. -/
theorem decodeInvertsEncode : Obligations.DecodeInvertsEncode := by
  intro i h
  obtain ⟨-, c, hrow, hc⟩ := row_of_wf h
  refine decode_eq_ok_iff.mpr ⟨encode_lt i, ?_⟩
  rw [decompose_encode h]
  exact ⟨c, hrow, hc⟩

/-- Settles O2: the opcode field of an address has a row, and the decoder answers every instruction that
encodes to the address. -/
theorem everyAddressIsOneInstruction : Obligations.EveryAddressIsOneInstruction := by
  intro n A hA
  obtain ⟨c, hrow⟩ := exists_row n (decompose_fits n.profile.partition A).opcode
  have hdec := decode_eq_ok_iff.mpr ⟨hA, c, hrow, rfl⟩
  refine ⟨_, hdec, wf_of_decode hdec, congrArg Slot.named (slot_of_decode hdec), encode_of_decode hdec, ?_⟩
  rintro j hwf rfl rfl
  exact Except.ok.inj ((decodeInvertsEncode j hwf).symm.trans hdec)

/-- Settles O3, by running the decoder on the ten words. -/
theorem tableWordsDecodeToTheirRows : Obligations.TableWordsDecodeToTheirRows := by
  unfold Obligations.TableWordsDecodeToTheirRows
  decide

/-! ### The address formats -/

/-- Over adjacent positions a value is shifted to the first of them (R100, R105). -/
theorem scatter_range' (v lo n : Nat) : scatter v (List.range' lo n) = (v % 2 ^ n) <<< lo := by
  induction n generalizing v lo with
  | zero => simp [scatter, Nat.mod_one]
  | succ n ih =>
    have hbit : bitAt v 0 = v % 2 := by
      rw [bitAt, Nat.testBit_zero]
      rcases Nat.mod_two_eq_zero_or_one v with h | h <;> simp [h]
    have hmod : v % 2 ^ (n + 1) = v % 2 + 2 * (v / 2 % 2 ^ n) := by
      rw [Nat.pow_succ', Nat.mod_mul]
    rw [List.range'_succ, scatter, ih, hbit, hmod]
    simp only [Nat.shiftLeft_eq, Nat.pow_succ]
    ring

/-- The same for a value that fits the positions. -/
theorem scatter_range'_of_lt {v n : Nat} (lo : Nat) (h : v < 2 ^ n) :
    scatter v (List.range' lo n) = v <<< lo := by
  rw [scatter_range', Nat.mod_eq_of_lt h]

/-- Compose of TOY (R49). -/
theorem compose_toy {f o s : Nat} (hf : f < 2) (ho : o < 2) (hs : s < 4) :
    compose toyPartition ⟨f, o, s, 0⟩ = (f <<< 3) ||| (o <<< 2) ||| s := by
  have hsum : compose toyPartition ⟨f, o, s, 0⟩ = scatter f (List.range' 3 1) +
      scatter o (List.range' 2 1) + scatter s (List.range' 0 2) + scatter 0 [] := rfl
  have hlow : o <<< 2 + s < 2 ^ 3 := by omega
  rw [Nat.or_assoc, ← Nat.shiftLeft_add_eq_or_of_lt (i := 2) hs, ← Nat.shiftLeft_add_eq_or_of_lt hlow,
    hsum, scatter_range'_of_lt 3 hf, scatter_range'_of_lt 2 ho, scatter_range'_of_lt 0 hs, scatter]
  omega

/-- Compose of REF (R50). -/
theorem compose_ref {f o s k : Nat} (hf : f < 16) (ho : o < 32) (hs : s < 16) (hk : k < 4) :
    compose refPartition ⟨f, o, s, k⟩ = (k <<< 13) ||| (f <<< 9) ||| (o <<< 4) ||| s := by
  have hsum : compose refPartition ⟨f, o, s, k⟩ = scatter f (List.range' 9 4) +
      scatter o (List.range' 4 5) + scatter s (List.range' 0 4) + scatter k (List.range' 13 2) := rfl
  have hlow : o <<< 4 + s < 2 ^ 9 := by omega
  have hmid : f <<< 9 + (o <<< 4 + s) < 2 ^ 13 := by omega
  rw [Nat.or_assoc, Nat.or_assoc, ← Nat.shiftLeft_add_eq_or_of_lt (i := 4) hs,
    ← Nat.shiftLeft_add_eq_or_of_lt hlow, ← Nat.shiftLeft_add_eq_or_of_lt hmid, hsum,
    scatter_range'_of_lt 9 hf, scatter_range'_of_lt 4 ho, scatter_range'_of_lt 0 hs,
    scatter_range'_of_lt 13 hk]
  omega

/-- The format of REF17 is REF's on the low five opcode bits, with the two others above it (R51). -/
theorem compose_ref17_eq_add (f o s k : Nat) :
    compose ref17Partition ⟨f, o, s, k⟩ =
      ((o >>> 5) % 4) <<< 15 + compose refPartition ⟨f, o % 32, s, k⟩ := by
  have hopcode : scatter o ref17Partition.opcode =
      scatter (o % 32) refPartition.opcode + ((o >>> 5) % 4) <<< 15 := by
    have hlow : scatter (o % 32) refPartition.opcode = scatter o refPartition.opcode :=
      scatter_mod o refPartition.opcode
    have happ : ref17Partition.opcode = refPartition.opcode ++ List.range' 15 2 := rfl
    rw [hlow, happ, scatter_append, scatter_range', Nat.shiftRight_eq_div_pow]
    rfl
  simp only [compose, hopcode]
  change scatter f refPartition.flags + _ + scatter s refPartition.step + scatter k refPartition.slice = _
  omega

/-- Compose of REF17 (R51). -/
theorem compose_ref17 {f o s k : Nat} (hf : f < 16) (ho : o < 128) (hs : s < 16) (hk : k < 4) :
    compose ref17Partition ⟨f, o, s, k⟩ =
      ((o >>> 5) <<< 15) ||| (k <<< 13) ||| (f <<< 9) ||| ((o &&& 31) <<< 4) ||| s := by
  have hhigh : (o >>> 5) % 4 = o >>> 5 := by omega
  have hmask : o &&& 31 = o % 32 := Nat.and_two_pow_sub_one_eq_mod o 5
  have hlow : compose refPartition ⟨f, o % 32, s, k⟩ < 2 ^ 15 :=
    compose_lt (partitionCheck_profile .ref) _
  rw [compose_ref17_eq_add, hhigh, Nat.shiftLeft_add_eq_or_of_lt hlow,
    compose_ref hf (Nat.mod_lt _ (by decide)) hs hk, hmask]
  simp only [Nat.or_assoc]

/-- Compose of MINI, bit by bit (R52). -/
theorem testBit_compose_mini {f o s k : Nat} (hf : f < 16) (ho : o < 2) (hs : s < 4) (hk : k < 2)
    (b : Nat) : (compose miniPartition ⟨f, o, s, k⟩).testBit b =
      match b with
      | 0 => f.testBit 0
      | 1 => f.testBit 3
      | 2 => k.testBit 0
      | 3 => s.testBit 0
      | 4 => s.testBit 1
      | 5 => f.testBit 2
      | 6 => o.testBit 0
      | 7 => f.testBit 1
      | _ => false := by
  have hpart := partitionCheck_profile .mini
  have hback : decompose miniPartition (compose miniPartition ⟨f, o, s, k⟩) = ⟨f, o, s, k⟩ :=
    decompose_compose hpart ⟨hf, ho, hs, hk⟩
  have hlt : compose miniPartition ⟨f, o, s, k⟩ < 2 ^ 8 := compose_lt hpart _
  generalize compose miniPartition ⟨f, o, s, k⟩ = A at hback hlt
  obtain ⟨hflags, hopcode, hstep, hslice⟩ := Fields.mk.inj hback
  match b with
  | 0 => exact testBit_of_field hflags (j := 0) rfl
  | 1 => exact testBit_of_field hflags (j := 3) rfl
  | 2 => exact testBit_of_field hslice (j := 0) rfl
  | 3 => exact testBit_of_field hstep (j := 0) rfl
  | 4 => exact testBit_of_field hstep (j := 1) rfl
  | 5 => exact testBit_of_field hflags (j := 2) rfl
  | 6 => exact testBit_of_field hopcode (j := 0) rfl
  | 7 => exact testBit_of_field hflags (j := 1) rfl
  | b + 8 => exact Nat.testBit_lt_two_pow (hlt.trans_le (Nat.pow_le_pow_right (by decide) (by omega)))

/-- Settles O4, format by format. -/
theorem addressFormatsOfTheNamedProfiles : Obligations.AddressFormatsOfTheNamedProfiles :=
  ⟨⟨rfl, rfl, rfl, rfl⟩, fun _ _ _ => compose_toy, fun _ _ _ _ => compose_ref,
    fun _ _ _ _ => compose_ref17, fun _ _ _ _ => testBit_compose_mini⟩

/-! ### Undefined opcodes -/

/-- An opcode that no edit names keeps its base microprogram (R89). -/
theorem editedSlot_of_unedited {P : Profile} {o : Nat} (h : ∀ e ∈ P.edits, e.opcode ≠ o) (f : Nat) :
    editedSlot P f o = micro P o := by
  unfold editedSlot
  generalize micro P o = m
  generalize P.edits = es at h ⊢
  induction es with
  | nil => rfl
  | cons e es ih =>
    obtain ⟨he, hes⟩ := List.forall_mem_cons.mp h
    simpa [he] using ih hes

/-- An undefined opcode is of the extended page only through `ext_slots` (R92). -/
theorem isExt_of_undefined {P : Profile} {o : Nat} (h : slotAt P o = none) (hx : o ∉ P.extSlots) :
    isExt P o = false := by
  simp [isExt, h, hx]

/-- The base microprogram of an undefined opcode: the fetch words and idle words (R57, R70, R74). -/
theorem micro_of_undefined {P : Profile} {o : Nat} (h : slotAt P o = none) : micro P o =
    P.word P.fetch0 :: P.word P.fetch1 :: List.replicate (2 ^ P.NS - 2) 0 := by
  simp [micro, bodyAt, h]

/-- Every word of an undefined opcode in the expanded table (R57, R74, R143). -/
theorem lookup_of_undefined {P : Profile} {f o : Nat} (hf : f < 2 ^ P.NF) (ho : o < 2 ^ P.NO)
    (h : slotAt P o = none) (hx : o ∉ P.extSlots) (he : ∀ e ∈ P.edits, e.opcode ≠ o) (s : Nat) :
    lookup (expand P) f o s = [P.word P.fetch0, P.word P.fetch1].getD s 0 := by
  have hslot : expandedSlot P f o = micro P o := by
    rw [expandedSlot, isExt_of_undefined h hx, editedSlot_of_unedited he]
    rfl
  rw [lookup_expand P hf ho, hslot, micro_of_undefined h]
  match s with
  | 0 | 1 => rfl
  | s + 2 =>
    have hidle : (List.replicate (2 ^ P.NS - 2) 0).getD s 0 = 0 := by
      rw [List.getD_eq_getElem?_getD, List.getElem?_replicate]
      split <;> rfl
    exact hidle

/-- Settles O17: nothing after the base table touches the opcode. -/
theorem undefinedOpcodeIsFetchOnly : Obligations.UndefinedOpcodeIsFetchOnly := by
  intro P f o s _ hf ho _ h hx he
  rw [lookup_of_undefined hf ho h hx he]
  match s with
  | 0 | 1 | _ + 2 => rfl

/-- A byte slice of a word that fits the control-word width is its shifted low byte, whatever the slice index:
beyond the last slice the word has no bits (R108, R109). -/
theorem slice_of_lt {Wc : Nat} {w : CtrlWord} (hw : w < 2 ^ Wc) (k : Nat) :
    slice Wc w k = BitVec.ofNat 8 (w >>> (8 * k)) := by
  unfold slice
  by_cases hk : nslices Wc ≤ k
  · have hWc : Wc ≤ 8 * k := by
      unfold nslices at hk
      omega
    rw [if_pos hk, Nat.shiftRight_eq_zero _ _ (hw.trans_le (Nat.pow_le_pow_right (by decide) hWc))]
    rfl
  · rw [if_neg hk, Nat.mul_comm k 8]
    apply BitVec.eq_of_toNat_eq
    rw [BitVec.toNat_ofNat, BitVec.toNat_ofNat, show 0xFF = 2 ^ 8 - 1 from rfl,
      Nat.and_two_pow_sub_one_eq_mod, Nat.mod_mod]

/-- On the loaded ROM of its profile a well-formed instruction answers its slice of its word (R112, R117). -/
theorem exec_of_loaded {i : Instr} {s : State} (h : i.wf = true)
    (hl : Loaded i.slot.named.profile s) :
    exec i s = .next (s.answered (encode i) (slice i.slot.named.profile.Wc
      (lookup (expand i.slot.named.profile) i.slot.fields.flags i.slot.fields.opcode i.slot.fields.step)
      i.slot.fields.slice)) := by
  obtain ⟨hP, hrom⟩ := hl
  rw [everyInstructionCompletes i s _ h hP hrom, hP, read_ofProfile (valid_profile _) (encode_lt i),
    imageByte, romByte, decompose_encode h]

/-- The words of REF17's opcodes from 32 on: its table, its extended page and its edits name smaller ones
only (R130). -/
theorem lookup_ref17_leftover {f o : Nat} (hf : f < 16) (hlow : 32 ≤ o) (ho : o < 128) (st : Nat) :
    lookup (expand ref17Profile) f o st = [0x00003, 0x0001C].getD st 0 := by
  have hops : ∀ e ∈ ref17Profile.ops, e.1 < 32 := by decide
  have hext : ∀ x ∈ ref17Profile.extSlots, x < 32 := by decide
  have hedits : ∀ e ∈ ref17Profile.edits, e.opcode < 32 := by decide
  have hslot : slotAt ref17Profile o = none := by
    refine Option.map_eq_none_iff.mpr (List.find?_eq_none.mpr fun e he => ?_)
    have := hops e he
    simpa using (by omega : e.1 ≠ o)
  exact lookup_of_undefined (P := ref17Profile) hf ho hslot
    (fun h => by have := hext o h; omega) (fun e he => by have := hedits e he; omega) st

/-- The words of a fetch-only opcode of REF17 fit its width (R71, R72, R130). -/
theorem fetchOnly_lt (st : Nat) : [0x00003, 0x0001C].getD st 0 < 2 ^ ref17Profile.Wc :=
  match st with
  | 0 => (by decide : 0x00003 < 2 ^ ref17Profile.Wc)
  | 1 => (by decide : 0x0001C < 2 ^ ref17Profile.Wc)
  | _ + 2 => Nat.two_pow_pos _

/-- What a row of REF17 with an opcode from 32 on answers (R60, R130). -/
theorem exec_ref17_leftover {i : Instr} {s : State} {f o st k : Nat}
    (hslot : i.slot = ⟨.ref17, ⟨f, o, st, k⟩⟩) (h : i.wf = true) (hlow : 32 ≤ o)
    (hl : Loaded ref17Profile s) :
    exec i s = .next (s.answered (encode i) (byteAt [0x00003, 0x0001C] st k)) := by
  have hfits := (row_of_wf h).1
  have hexec := exec_of_loaded (s := s) h (hslot.symm ▸ hl)
  rw [hslot] at hfits hexec
  have hbyte : slice ref17Profile.Wc (lookup (expand ref17Profile) f o st) k =
      byteAt [0x00003, 0x0001C] st k := by
    rw [lookup_ref17_leftover hfits.flags hlow hfits.opcode, slice_of_lt (fetchOnly_lt st)]
  rw [← hbyte]
  exact hexec

/-- Settles O54: the three rows are the opcodes 32, 64 and 96 plus their low five bits. -/
theorem leftoverOpcodeWords : Obligations.LeftoverOpcodeWords := by
  intro c hc s low f st k hlow hf hst hk hl
  have hrange : rangeFieldsOk low f st k = true := by simp [rangeFieldsOk, refFieldsOk, *]
  simp only [List.mem_cons, List.not_mem_nil, or_false] at hc
  rcases hc with rfl | rfl | rfl <;>
    exact exec_ref17_leftover rfl hrange (by omega) hl

end Sys2Proof.Machine
end

section
/-! The statements about the signal catalog (40_signal_catalog.md): CatalogCheck, the word of one signal, words
made of names, and the bits that the words of the tables can have. -/

namespace Sys2Proof.Machine

/-! ### CatalogCheck -/

/-- The range check passes exactly when every bit index is below `Wc` (R64). -/
theorem firstOutOfRange_eq_none_iff {Wc : Nat} {l : List (String × Nat)} :
    firstOutOfRange Wc l = none ↔ ∀ e ∈ l, e.2 < Wc := by
  simp [firstOutOfRange]

/-- What the range check names is an entry whose bit index is not below `Wc` (R64, R139). -/
theorem entry_of_firstOutOfRange {Wc : Nat} {l : List (String × Nat)} {r : CatalogReason}
    (h : firstOutOfRange Wc l = some r) : ∃ e ∈ l, Wc ≤ e.2 ∧ r = .outOfRange e.1 e.2 := by
  obtain ⟨e, he, rfl⟩ := Option.map_eq_some_iff.mp h
  have hle := List.find?_some he
  exact ⟨e, List.mem_of_find?_eq_some he, of_decide_eq_true hle, rfl⟩

/-- The pair check looks for a clash of the first entry with a later one, then among the later ones (R64). -/
theorem firstCollision_cons (e : String × Nat) (l : List (String × Nat)) :
    firstCollision (e :: l) = ((l.find? fun e' => e'.2 == e.2 && e'.1 != e.1).map
      fun e' => .collision e.1 e'.1 e.2).or (firstCollision l) := by
  rw [firstCollision]
  cases l.find? fun e' => e'.2 == e.2 && e'.1 != e.1 <;> rfl

/-- The pair check passes exactly when signals of different names have different bits (R64). -/
theorem firstCollision_eq_none_iff {l : List (String × Nat)} :
    firstCollision l = none ↔ ∀ e ∈ l, ∀ e' ∈ l, e.1 ≠ e'.1 → e.2 ≠ e'.2 := by
  induction l with
  | nil => simp [firstCollision]
  | cons e l ih =>
    have hhead : (l.find? fun e' => e'.2 == e.2 && e'.1 != e.1) = none ↔
        ∀ e' ∈ l, e.1 ≠ e'.1 → e.2 ≠ e'.2 := by
      simp only [List.find?_eq_none, Bool.and_eq_true, beq_iff_eq, bne_iff_ne, not_and']
      exact ⟨fun h e' he' hn hb => h e' he' hn.symm hb.symm, fun h e' he' hn hb => h e' he' hn.symm hb.symm⟩
    rw [firstCollision_cons, Option.or_eq_none_iff, Option.map_eq_none_iff, hhead, ih]
    simp only [List.forall_mem_cons]
    constructor
    · rintro ⟨hhead, htail⟩
      exact ⟨⟨fun hn => absurd rfl hn, hhead⟩,
        fun x hx => ⟨fun hn => (hhead x hx hn.symm).symm, htail x hx⟩⟩
    · rintro ⟨⟨-, hhead⟩, htail⟩
      exact ⟨hhead, fun x hx => (htail x hx).2⟩

/-- What the pair check names are two entries of different names with one bit (R64, R139). -/
theorem entries_of_firstCollision {l : List (String × Nat)} {r : CatalogReason}
    (h : firstCollision l = some r) :
    ∃ n n' b, (n, b) ∈ l ∧ (n', b) ∈ l ∧ n ≠ n' ∧ r = .collision n n' b := by
  induction l with
  | nil => cases h
  | cons e l ih =>
    rw [firstCollision_cons, Option.or_eq_some_iff] at h
    rcases h with h | ⟨-, h⟩
    · obtain ⟨e', he', rfl⟩ := Option.map_eq_some_iff.mp h
      have hclash := List.find?_some he'
      simp only [Bool.and_eq_true, beq_iff_eq, bne_iff_ne] at hclash
      obtain ⟨hb, hn⟩ := hclash
      refine ⟨e.1, e'.1, e.2, List.mem_cons_self, ?_, hn.symm, rfl⟩
      exact List.mem_cons_of_mem _ (hb ▸ List.mem_of_find?_eq_some he')
    · obtain ⟨n, n', b, hm, hm', hn, rfl⟩ := ih h
      exact ⟨n, n', b, List.mem_cons_of_mem _ hm, List.mem_cons_of_mem _ hm', hn, rfl⟩

/-- CatalogCheck passes exactly on good catalogs (R64). -/
theorem catalogCheck_eq_none_iff {P : Profile} :
    catalogCheck P = none ↔ (∀ e ∈ P.signals, e.2 < P.Wc) ∧
      ∀ e ∈ P.signals, ∀ e' ∈ P.signals, e.1 ≠ e'.1 → e.2 ≠ e'.2 := by
  rw [catalogCheck, Option.or_eq_none_iff, firstOutOfRange_eq_none_iff, firstCollision_eq_none_iff]

/-- Everything an error of CatalogCheck can be: an entry out of range, or, where none is, two entries of
different names with one bit (R64, R139). -/
theorem catalogCheck_some_cases {P : Profile} {r : CatalogReason} (h : catalogCheck P = some r) :
    (∃ e ∈ P.signals, P.Wc ≤ e.2 ∧ r = .outOfRange e.1 e.2) ∨
    ((∀ e ∈ P.signals, e.2 < P.Wc) ∧
      ∃ n n' b, (n, b) ∈ P.signals ∧ (n', b) ∈ P.signals ∧ n ≠ n' ∧ r = .collision n n' b) := by
  rw [catalogCheck, Option.or_eq_some_iff, firstOutOfRange_eq_none_iff] at h
  exact h.imp entry_of_firstOutOfRange (And.imp_right entries_of_firstCollision)

/-- Settles O9: what passes is `catalogCheck_eq_none_iff`, and each error is one of the two cases of
`catalogCheck_some_cases`. -/
theorem catalogCheckNamesAWrongEntry : Obligations.CatalogCheckNamesAWrongEntry := by
  intro P
  refine ⟨catalogCheck_eq_none_iff, fun n b h => ?_, fun n n' b h => ?_⟩
  · rcases catalogCheck_some_cases h with ⟨e, he, hlt, heq⟩ | ⟨-, _, _, _, -, -, -, heq⟩
    · cases heq
      exact ⟨he, hlt⟩
    · cases heq
  · rcases catalogCheck_some_cases h with ⟨_, -, -, heq⟩ | ⟨hlt, _, _, _, hm, hm', hn, heq⟩
    · cases heq
    · cases heq
      exact ⟨hm, hm', hn, hlt⟩

/-! ### The word of one signal -/

/-- A name has no `sig` exactly when it is in no entry of the catalog (R65). -/
theorem sig?_eq_none_iff {P : Profile} {n : String} :
    P.sig? n = none ↔ ∀ b, (n, b) ∉ P.signals := by
  rw [Profile.sig?, Option.map_eq_none_iff, List.find?_eq_none]
  constructor
  · exact fun h b hb => h _ hb (beq_self_eq_true n)
  · rintro h ⟨n', b⟩ he hn
    exact h b (eq_of_beq hn ▸ he)

/-- Where no name occurs twice, a name has one bit. -/
theorem bit_unique {P : Profile} (hnd : (P.signals.map fun e => e.1).Nodup) {n : String} {b b' : Nat}
    (h : (n, b) ∈ P.signals) (h' : (n, b') ∈ P.signals) : b = b' :=
  congrArg Prod.snd (List.inj_on_of_nodup_map hnd h h' rfl)

/-- Where no name occurs twice, the `sig` of a catalog entry is its own bit (R65). -/
theorem sig?_of_mem {P : Profile} (hnd : (P.signals.map fun e => e.1).Nodup) {n : String} {b : Nat}
    (h : (n, b) ∈ P.signals) : P.sig? n = some (1 <<< b) := by
  rw [Profile.sig?]
  cases hf : P.signals.find? fun e => e.1 == n with
  | none => exact absurd (beq_self_eq_true n) (List.find?_eq_none.mp hf _ h)
  | some e =>
    obtain ⟨n', b'⟩ := e
    have hn := List.find?_some hf
    obtain rfl : n' = n := eq_of_beq hn
    rw [bit_unique hnd h (List.mem_of_find?_eq_some hf)]
    rfl

/-- A profile without unknown names writes its words with catalog names only (R65, R142). -/
theorem mem_signals_of_known {P : Profile} {ns : List String} (h : hasUnknownName P (.names ns) = false)
    {n : String} (hn : n ∈ ns) : ∃ b, (n, b) ∈ P.signals := by
  by_contra hout
  rw [hasUnknownName, List.any_eq_false] at h
  have hnone : P.sig? n = none := sig?_eq_none_iff.mpr (not_exists.mp hout)
  exact h n hn (Option.isNone_iff_eq_none.mpr hnone)

/-- Settles O10: names are distinct and bits in range, and ShapeCheck has no unknown name. -/
theorem sigIsTheSignalsOwnBit : Obligations.SigIsTheSignalsOwnBit := by
  intro P hv
  obtain ⟨hc, -, hs⟩ := valid_parts hv
  have hshape := shapeCheck_facts hs
  obtain ⟨hlt, -⟩ := catalogCheck_eq_none_iff.mp hc
  refine ⟨fun n b hb => ⟨sig?_of_mem hshape.names_nodup hb, ?_⟩,
    fun n hout => ⟨sig?_eq_none_iff.mpr hout, ?_⟩⟩
  · rw [Nat.one_shiftLeft]
    exact Nat.pow_lt_pow_right Nat.one_lt_two (hlt _ hb)
  · intro ns hns hn
    obtain ⟨b, hb⟩ := mem_signals_of_known (hshape.known _ hns) hn
    exact hout b hb

/-! ### Words made of names -/

/-- The bits of a word of names are those of the `sig` values (R66). -/
theorem testBit_word_names (P : Profile) (ns : List String) (b : Nat) :
    (P.word (.names ns)).testBit b = true ↔ ∃ n ∈ ns, ((P.sig? n).getD 0).testBit b = true := by
  induction ns with
  | nil => simp [Profile.word]
  | cons n ns ih =>
    have hcons : P.word (.names (n :: ns)) = (P.sig? n).getD 0 ||| P.word (.names ns) := rfl
    rw [hcons, Nat.testBit_or, Bool.or_eq_true, ih]
    simp only [List.mem_cons, exists_eq_or_imp]

/-- The one bit of a `sig` is the bit of the signal, and a name outside the catalog adds none (R65). -/
theorem testBit_sig? {P : Profile} (hnd : (P.signals.map fun e => e.1).Nodup) (n : String) (b : Nat) :
    ((P.sig? n).getD 0).testBit b = true ↔ (n, b) ∈ P.signals := by
  by_cases hn : ∃ b', (n, b') ∈ P.signals
  · obtain ⟨b', hb'⟩ := hn
    rw [sig?_of_mem hnd hb', Option.getD_some, Nat.one_shiftLeft, Nat.testBit_two_pow, decide_eq_true_iff]
    exact ⟨fun h => h ▸ hb', fun h => bit_unique hnd hb' h⟩
  · have hout := not_exists.mp hn
    simp [sig?_eq_none_iff.mpr hout, hout b]

/-- A word of names asserts exactly the lines of those names (R66). -/
theorem testBit_word_names_iff {P : Profile} (hnd : (P.signals.map fun e => e.1).Nodup)
    (ns : List String) (b : Nat) :
    (P.word (.names ns)).testBit b = true ↔ ∃ n ∈ ns, (n, b) ∈ P.signals := by
  simp only [testBit_word_names, testBit_sig? hnd]

/-- A word reads back as the names whose bit it has (R69). -/
theorem mem_names_iff {P : Profile} {w : CtrlWord} {n : String} :
    n ∈ P.names w ↔ ∃ b, (n, b) ∈ P.signals ∧ w.testBit b = true := by
  simp [Profile.names]

/-- Settles O11: the bits of the word come from its names, and a bit belongs to one name only. -/
theorem wordAssertsExactlyItsNames : Obligations.WordAssertsExactlyItsNames := by
  intro P ns hv hns
  obtain ⟨hc, -, hs⟩ := valid_parts hv
  obtain ⟨-, hdistinct⟩ := catalogCheck_eq_none_iff.mp hc
  have hbits := testBit_word_names_iff (shapeCheck_facts hs).names_nodup ns
  refine ⟨hbits, fun n => mem_names_iff.trans ⟨?_, fun hn => ?_⟩⟩
  · rintro ⟨b, hb, hset⟩
    obtain ⟨n', hn', hb'⟩ := (hbits b).mp hset
    have hname : n' = n := by_contra fun hne => hdistinct _ hb' _ hb hne rfl
    exact hname ▸ hn'
  · obtain ⟨b, hb⟩ := hns n hn
    exact ⟨b, hb, (hbits b).mpr ⟨n, hn, hb⟩⟩

/-! ### The words of the tables -/

/-- A microprogram of the expanded table is a slot expanded alone (R93). -/
theorem exists_expandedSlot {P : Profile} (h : Valid P) {T : OpcodeTable} {m : Microprogram}
    (hT : T ∈ expand P) (hm : m ∈ T) : ∃ f o, m = expandedSlot P f o := by
  obtain ⟨hlen, hrows⟩ := expand_shaped h
  obtain ⟨f, hf, rfl⟩ := List.mem_iff_getElem.mp hT
  obtain ⟨o, ho, rfl⟩ := List.mem_iff_getElem.mp hm
  obtain ⟨T', hT', hslot⟩ := expand_row P (hlen ▸ hf) ((hrows _ hT).1 ▸ ho)
  obtain rfl := Option.some.inj ((List.getElem?_eq_getElem hf).symm.trans hT')
  exact ⟨f, o, Option.some.inj ((List.getElem?_eq_getElem ho).symm.trans hslot)⟩

/-- A property of words that the expander cannot break: the idle word has it, and the OR of two words that
have it has it too (R70, R92). -/
structure OrClosed (Q : CtrlWord → Prop) : Prop where
  zero : Q 0
  or : ∀ {v w}, Q v → Q w → Q (v ||| w)

section Closed
variable {P : Profile} {Q : CtrlWord → Prop} (hQ : OrClosed Q) (hP : ∀ w ∈ profileWords P, Q (P.word w))
include hQ hP

/-- The base microprograms consist of words of the profile and idle words (R70). -/
theorem micro_closed {o : Nat} : ∀ w ∈ micro P o, Q w := by
  intro w hw
  rcases micro_mem hw with rfl | ⟨x, hx, rfl⟩
  · exact hQ.zero
  · exact hP x hx

/-- An edit puts a word of the profile in place of another (R89). -/
theorem editedSlot_closed {f o : Nat} : ∀ w ∈ editedSlot P f o, Q w := by
  unfold editedSlot
  have hedits : ∀ e ∈ P.edits, Q (P.word e.word) := fun e he => hP _ (by
    simp only [profileWords, List.mem_append, List.mem_map]
    exact .inr ⟨e, he, rfl⟩)
  have hm := micro_closed hQ hP (o := o)
  generalize P.edits = es at hedits ⊢
  generalize micro P o = m at hm ⊢
  induction es generalizing m with
  | nil => exact hm
  | cons e es ih =>
    obtain ⟨he, hes⟩ := List.forall_mem_cons.mp hedits
    refine ih hes _ fun w hw => ?_
    dsimp only at hw
    split at hw
    · rcases List.mem_or_eq_of_mem_set hw with hw | rfl
      · exact hm w hw
      · exact he
    · exact hm w hw

/-- The clear-extend word is a word of the profile, or idle where the profile has none (R19). -/
theorem clearExtendWord_closed : Q (clearExtendWord P) := by
  unfold clearExtendWord
  cases hx : P.xc with
  | none => exact hQ.zero
  | some x => exact hP x (by simp [profileWords, hx])

/-- Clear-extend is ORed into a word that is there, or into nothing (R92). -/
theorem clearExtendAt_closed {m : Microprogram} (hm : ∀ w ∈ m, Q w) : ∀ w ∈ clearExtendAt P m, Q w := by
  intro w hw
  rcases List.mem_or_eq_of_mem_set hw with hw | rfl
  · exact hm w hw
  · refine hQ.or ?_ (clearExtendWord_closed hQ hP)
    rw [List.getD_eq_getElem?_getD]
    cases hg : m[terminal m]? with
    | none => exact hQ.zero
    | some v => exact hm v (List.mem_of_getElem? hg)

/-- Every word of the base table has what the words of the profile have (R86). -/
theorem baseTable_closed : ∀ m ∈ baseTable P, ∀ w ∈ m, Q w := by
  intro m hm
  obtain ⟨o, -, rfl⟩ := List.mem_map.mp hm
  exact micro_closed hQ hP

/-- Every word of the expanded table has what the words of the profile have (R93). -/
theorem expand_closed (hv : Valid P) : ∀ T ∈ expand P, ∀ m ∈ T, ∀ w ∈ m, Q w := by
  intro T hT m hm
  obtain ⟨f, o, rfl⟩ := exists_expandedSlot hv hT hm
  have hedited := editedSlot_closed hQ hP (f := f) (o := o)
  unfold expandedSlot
  split
  · exact clearExtendAt_closed hQ hP hedited
  · exact hedited

end Closed

/-- Fitting a width is kept by OR. -/
theorem orClosed_lt (n : Nat) : OrClosed (· < 2 ^ n) := ⟨Nat.two_pow_pos n, Nat.or_lt_two_pow⟩

/-- Having a bit clear is kept by OR. -/
theorem orClosed_testBit (b : Nat) : OrClosed (·.testBit b = false) :=
  ⟨Nat.zero_testBit b, fun hv hw => by rw [Nat.testBit_or, hv, hw]; rfl⟩

/-- Settles O12: the width and the clear bit are two properties that the expander cannot break. -/
theorem tableWordsHaveOnlyTheProfilesBits : Obligations.TableWordsHaveOnlyTheProfilesBits := by
  intro P hv
  obtain ⟨-, -, hs⟩ := valid_parts hv
  have hnarrow := (shapeCheck_facts hs).narrow
  have hwidth := orClosed_lt P.Wc
  refine ⟨baseTable_closed hwidth hnarrow, expand_closed hwidth hnarrow hv, fun b hclear => ?_⟩
  have hbit := orClosed_testBit b
  exact ⟨baseTable_closed hbit hclear, expand_closed hbit hclear hv⟩

/-! ### Ill-formed profiles -/

/-- Settles O33: two profiles fail CatalogCheck, three pass it and fail PartitionCheck, four pass both and
fail ShapeCheck, each check run on the profile (R146). -/
theorem illFormedProfilesAreRefused : Obligations.IllFormedProfilesAreRefused := by
  have shape : ∀ {P : Profile} {r : ShapeReason}, catalogCheck P = none → partitionCheck P = none →
      shapeCheck P = some r → buildError P = some (.profileRefused r) :=
    fun hc hp hs => (buildError_of_passed hc hp).trans (congrArg _ hs)
  exact ⟨buildError_of_catalog (by decide), buildError_of_catalog (by decide),
    buildError_of_partition (by decide) (by decide), buildError_of_partition (by decide) (by decide),
    buildError_of_partition (by decide) (by decide), shape (by decide) (by decide) (by decide),
    shape (by decide) (by decide) (by decide), shape (by decide) (by decide) (by decide),
    shape (by decide) (by decide) (by decide)⟩

end Sys2Proof.Machine
end

section
/-! The statements about the opcode microprogram table (41_microprograms.md): the rows of the base table, and
the words that an opcode without flag edits answers under every flag combination. -/

namespace Sys2Proof.Machine

/-! ### The rows of the base table -/

/-- A microprogram is the fetch words, the body and idle words (R70). -/
theorem micro_eq (P : Profile) (o : Nat) : micro P o = P.word P.fetch0 :: P.word P.fetch1 ::
    (bodyAt P o ++ List.replicate (2 ^ P.NS - 2 - (bodyAt P o).length) 0) := rfl

/-- Idle words after the end of a list change no lookup in it (R54). -/
theorem getD_append_idle (ws : List CtrlWord) (n s : Nat) :
    (ws ++ List.replicate n 0).getD s 0 = ws.getD s 0 := by
  rcases lt_or_ge s ws.length with hs | hs
  · exact List.getD_append _ _ _ _ hs
  · rw [List.getD_append_right _ _ _ _ hs, List.getD_eq_default _ _ hs, List.getD_eq_getElem?_getD,
      List.getElem?_getD_replicate_default_eq]

/-- A word of a microprogram: of its fetch words and its body, or idle (R70). -/
theorem getD_micro (P : Profile) (o s : Nat) : (micro P o).getD s 0 =
    (P.word P.fetch0 :: P.word P.fetch1 :: bodyAt P o).getD s 0 :=
  getD_append_idle (P.word P.fetch0 :: P.word P.fetch1 :: bodyAt P o) _ s

/-- Settles O16: row `o` is `micro P o`, whose words after the fetch words are `micro_eq` up to the end of the
body and `getD_micro` beyond it (R86). -/
theorem baseTableRows : Obligations.BaseTableRows := by
  intro P hv
  obtain ⟨-, hp, hs⟩ := valid_parts hv
  have hshape := shapeCheck_facts hs
  obtain ⟨-, -, -, -, hsteps, -⟩ := partitionCheck_facts hp
  have hlen := micro_length hshape hsteps
  refine ⟨by simp [baseTable], fun o ho => ⟨micro P o, by simp [baseTable, ho], hlen o, rfl, rfl,
    fun j hj => ?_, fun s hlow hhigh => ?_, micro_closed (orClosed_lt P.Wc) hshape.narrow⟩⟩
  · rw [micro_eq, Nat.add_comm]
    exact List.getElem?_append_left hj
  · have hin : s < (micro P o).length := (hlen o).symm ▸ hhigh
    have hend : (P.word P.fetch0 :: P.word P.fetch1 :: bodyAt P o).length ≤ s := by
      simp only [List.length_cons]
      omega
    rw [List.getElem?_eq_getElem hin, ← List.getD_eq_getElem _ 0 hin, getD_micro,
      List.getD_eq_default _ _ hend]

/-! ### The byte of a slot -/

/-- Every word of the expanded table of a valid profile fits the control-word width (R93, R142). -/
theorem lookup_expand_lt {P : Profile} (hv : Valid P) {f o : Nat} (hf : f < 2 ^ P.NF) (ho : o < 2 ^ P.NO)
    (s : Nat) : lookup (expand P) f o s < 2 ^ P.Wc := by
  obtain ⟨-, -, hs⟩ := valid_parts hv
  obtain ⟨T, hT, hm⟩ := expand_row P hf ho
  have hwords := expand_closed (orClosed_lt P.Wc) (shapeCheck_facts hs).narrow hv
    T (List.mem_of_getElem? hT) _ (List.mem_of_getElem? hm)
  rw [lookup_eq hT hm, List.getD_eq_getElem?_getD]
  cases hg : (expandedSlot P f o)[s]? with
  | none => exact Nat.two_pow_pos _
  | some w => exact hwords w (List.mem_of_getElem? hg)

/-- On the loaded ROM of its profile an instruction whose slot has the words `ws`, and idle words after them,
answers their bytes (R112, R117). -/
theorem exec_of_words {i : Instr} {s : State} {n : NamedProfile} {f o st k : Nat} {ws : List CtrlWord}
    (hslot : i.slot = ⟨n, ⟨f, o, st, k⟩⟩) (h : i.wf = true) (hl : Loaded n.profile s)
    (hw : f < 2 ^ n.profile.NF → o < 2 ^ n.profile.NO →
      lookup (expand n.profile) f o st = ws.getD st 0) :
    exec i s = .next (s.answered (encode i) (byteAt ws st k)) := by
  have hfits := (row_of_wf h).1
  have hexec := exec_of_loaded (s := s) h (hslot.symm ▸ hl)
  rw [hslot] at hfits hexec
  have hlt := lookup_expand_lt (valid_profile n) hfits.flags hfits.opcode st
  rw [hexec, slice_of_lt hlt, hw hfits.flags hfits.opcode]

/-! ### Opcodes without flag edits -/

/-- No flag edit names opcode `o` (R89). -/
abbrev Unedited (P : Profile) (o : Nat) : Prop := ∀ e ∈ P.edits, e.opcode ≠ o

/-- An opcode outside the extended page that no edit names has its base words in every flag combination
(R70, R93, R96). -/
theorem lookup_of_unedited {P : Profile} {f o : Nat} (hf : f < 2 ^ P.NF) (ho : o < 2 ^ P.NO)
    (he : Unedited P o) (hx : isExt P o = false) (s : Nat) : lookup (expand P) f o s =
      (P.word P.fetch0 :: P.word P.fetch1 :: bodyAt P o).getD s 0 := by
  have hslot : expandedSlot P f o = micro P o := by
    rw [expandedSlot, hx, editedSlot_of_unedited he]
    rfl
  rw [lookup_expand P hf ho, hslot, getD_micro]

/-- Opcode `o` is outside the extended page, no edit names it, and `ws` are its fetch words and its body. -/
abbrev PlainWords (P : Profile) (o : Nat) (ws : List CtrlWord) : Prop :=
  Unedited P o ∧ isExt P o = false ∧ P.word P.fetch0 :: P.word P.fetch1 :: bodyAt P o = ws

/-- What an opcode of plain words answers, under every flag combination. -/
theorem exec_of_plainWords {i : Instr} {s : State} {n : NamedProfile} {f o st k : Nat} {ws : List CtrlWord}
    (hslot : i.slot = ⟨n, ⟨f, o, st, k⟩⟩) (h : i.wf = true) (hl : Loaded n.profile s)
    (hp : PlainWords n.profile o ws) :
    exec i s = .next (s.answered (encode i) (byteAt ws st k)) := by
  obtain ⟨he, hx, rfl⟩ := hp
  exact exec_of_words hslot h hl fun hf ho => lookup_of_unedited hf ho he hx st

/-- Fields in the ranges of REF and REF17 are well-formed operands (R50, R51). -/
theorem refFieldsOk_of_lt {f st k : Nat} (hf : f < 16) (hst : st < 16) (hk : k < 4) :
    refFieldsOk f st k = true := by
  simp [refFieldsOk, hf, hst, hk]

/-- Settles O47: LDA and STA are opcodes of plain words. -/
theorem loadAndStoreWords : Obligations.LoadAndStoreWords := by
  refine ⟨fun c hc s f st k hf hst hk hl => ?_, fun s f st k hf hst hk hl => ?_,
    fun c hc s f st k hf hst hk hl => ?_⟩
  · have hok := refFieldsOk_of_lt hf hst hk
    fin_cases hc <;> exact exec_of_plainWords rfl hok hl (by decide)
  · have hok : miniFieldsOk f st k = true := by simp [miniFieldsOk, hf, hst, hk]
    exact exec_of_plainWords (n := .mini) rfl hok hl (by decide)
  · have hok := refFieldsOk_of_lt hf hst hk
    fin_cases hc <;> exact exec_of_plainWords rfl hok hl (by decide)

/-- Settles O48: ADD and SUB are opcodes of plain words. -/
theorem addAndSubWords : Obligations.AddAndSubWords := by
  refine ⟨fun c hc s f st k hf hst hk hl => ?_, fun c hc s f st k hf hst hk hl => ?_⟩
  all_goals have hok := refFieldsOk_of_lt hf hst hk
  · fin_cases hc <;> exact exec_of_plainWords rfl hok hl (by decide)
  · fin_cases hc <;> exact exec_of_plainWords rfl hok hl (by decide)

/-- Settles O49: the four are opcodes of plain words, with a body of one word. -/
theorem jumpOutHaltExtendWords : Obligations.JumpOutHaltExtendWords := by
  intro c hc s f st k hf hst hk hl
  have hok := refFieldsOk_of_lt hf hst hk
  fin_cases hc <;> exact exec_of_plainWords rfl hok hl (by decide)

/-- Settles O50: NOP has an empty body and the others have none. -/
theorem nopAndUndefinedWords : Obligations.NopAndUndefinedWords := by
  intro c hc s f st k hf hst hk hl
  have hok := refFieldsOk_of_lt hf hst hk
  fin_cases hc <;> exact exec_of_plainWords rfl hok hl (by decide)

/-! ### Undefined slots of the extended page -/

/-- The terminal step of a microprogram that is idle after its fetch words is step 2 (R91). -/
theorem terminal_of_idle {m : Microprogram} (h : ∀ s, 2 ≤ s → m.getD s 0 = 0) : terminal m = 2 := by
  have hnone : (List.range m.length).filter (fun s => 2 ≤ s && m.getD s 0 != 0) = [] := by
    refine List.filter_eq_nil_iff.mpr fun s _ => ?_
    simp only [Bool.and_eq_true, decide_eq_true_iff, bne_iff_ne, not_and, not_not]
    exact h s
  rw [terminal, hnone]
  rfl

/-- Every word of an undefined slot of the extended page: the fetch words and the clear-extend word
(R84, R92). -/
theorem lookup_of_undefined_extended {P : Profile} {f o : Nat} (hf : f < 2 ^ P.NF) (ho : o < 2 ^ P.NO)
    (hNS : 2 < 2 ^ P.NS) (he : Unedited P o) (h : slotAt P o = none) (hx : o ∈ P.extSlots) (s : Nat) :
    lookup (expand P) f o s = [P.word P.fetch0, P.word P.fetch1, clearExtendWord P].getD s 0 := by
  have hext : isExt P o = true := by simp [isExt, hx]
  obtain ⟨n, hn⟩ := Nat.exists_eq_add_of_le hNS
  have hm : micro P o = P.word P.fetch0 :: P.word P.fetch1 :: 0 :: List.replicate n 0 := by
    rw [micro_of_undefined h, hn, ← List.replicate_succ]
    congr 3
    omega
  have hidle : ∀ s, 2 ≤ s → (micro P o).getD s 0 = 0 := by
    intro s hs
    obtain ⟨j, rfl⟩ := Nat.exists_eq_add_of_le' hs
    rw [getD_micro, bodyAt, h]
    rfl
  rw [lookup_expand P hf ho, expandedSlot, if_pos hext, editedSlot_of_unedited he, clearExtendAt,
    terminal_of_idle hidle, hidle 2 le_rfl, Nat.zero_or, hm]
  exact getD_append_idle [P.word P.fetch0, P.word P.fetch1, clearExtendWord P] n s

/-- Opcode `o` is an undefined slot of the extended page that no edit names, in a profile with a step after
the fetch, and `ws` are the fetch words and the clear-extend word. -/
abbrev ClearExtendOnly (P : Profile) (o : Nat) (ws : List CtrlWord) : Prop :=
  2 < 2 ^ P.NS ∧ Unedited P o ∧ slotAt P o = none ∧ o ∈ P.extSlots ∧
    [P.word P.fetch0, P.word P.fetch1, clearExtendWord P] = ws

/-- What an undefined slot of the extended page answers, under every flag combination (R84). -/
theorem exec_of_clearExtendOnly {i : Instr} {s : State} {n : NamedProfile} {f o st k : Nat}
    {ws : List CtrlWord} (hslot : i.slot = ⟨n, ⟨f, o, st, k⟩⟩) (h : i.wf = true) (hl : Loaded n.profile s)
    (hc : ClearExtendOnly n.profile o ws) :
    exec i s = .next (s.answered (encode i) (byteAt ws st k)) := by
  obtain ⟨hNS, he, hundef, hx, rfl⟩ := hc
  exact exec_of_words hslot h hl fun hf ho => lookup_of_undefined_extended hf ho hNS he hundef hx st

/-- Settles O53: the fourteen slots of each profile have the clear-extend word and no other after the
fetch. -/
theorem undefinedExtendedSlotWords : Obligations.UndefinedExtendedSlotWords := by
  refine ⟨fun c hc s f st k hf hst hk hl => ?_, fun c hc s f st k hf hst hk hl => ?_⟩
  all_goals have hok := refFieldsOk_of_lt hf hst hk
  · fin_cases hc <;> exact exec_of_clearExtendOnly (n := .ref) rfl hok hl (by decide)
  · fin_cases hc <;> exact exec_of_clearExtendOnly (n := .ref17) rfl hok hl (by decide)

end Sys2Proof.Machine
end

section
/-! The statements about the flag-variant expander (42_flag_expander.md): the terminal step, one edit, the edits
in list order, the clear-extend pass, and which flag combinations have the same table. -/

namespace Sys2Proof.Machine

/-! ### The terminal step -/

/-- The steps after the fetch words whose word is not idle: the set R91 takes the maximum of. -/
def nonIdleSteps (m : Microprogram) : List Nat :=
  (List.range m.length).filter fun s => 2 ≤ s && m.getD s 0 != 0

/-- A step beyond the end of a microprogram is idle, so the bound on the step can be left out (R91). -/
theorem mem_nonIdleSteps {m : Microprogram} {s : Nat} : s ∈ nonIdleSteps m ↔ 2 ≤ s ∧ m.getD s 0 ≠ 0 := by
  have hin : m.getD s 0 ≠ 0 → s < m.length := fun h => by
    by_contra hs
    exact h (List.getD_eq_default _ _ (Nat.le_of_not_lt hs))
  simp only [nonIdleSteps, List.mem_filter, List.mem_range, Bool.and_eq_true, decide_eq_true_iff, bne_iff_ne]
  exact ⟨And.right, fun h => ⟨hin h.2, h⟩⟩

/-- The terminal step is the larger of 2 and the greatest of those steps (R91). -/
theorem terminal_eq_max (m : Microprogram) : terminal m = max 2 ((nonIdleSteps m).max?.getD 2) :=
  List.foldl_max

/-- The terminal step is never one of the fetch words (R91). -/
theorem two_le_terminal (m : Microprogram) : 2 ≤ terminal m :=
  terminal_eq_max m ▸ Nat.le_max_left _ _

/-- No step after the fetch words that is not idle is after the terminal step (R91). -/
theorem le_terminal_of_mem {m : Microprogram} {s : Nat} (h : s ∈ nonIdleSteps m) : s ≤ terminal m :=
  terminal_eq_max m ▸ (List.le_max?_getD_of_mem h).trans (Nat.le_max_right _ _)

/-- A terminal step above the floor is one of the steps it is the maximum of (R91). -/
theorem terminal_mem_of_ne_two {m : Microprogram} (h : terminal m ≠ 2) : terminal m ∈ nonIdleSteps m := by
  rw [terminal_eq_max] at h ⊢
  cases hmax : (nonIdleSteps m).max? with
  | none => exact absurd (by rw [hmax]; rfl) h
  | some t =>
    have ht : t ∈ nonIdleSteps m := List.max?_mem hmax
    obtain ⟨htwo, -⟩ := mem_nonIdleSteps.mp ht
    rwa [Option.getD_some, Nat.max_eq_right htwo]

/-- Settles O21: the terminal step is the maximum of `nonIdleSteps` with the floor at 2. -/
theorem terminalIsTheLastNonIdleStep : Obligations.TerminalIsTheLastNonIdleStep := by
  refine fun m => ⟨two_le_terminal m, fun s hs => ?_, fun h => ?_⟩
  · by_contra hne
    have hmem : s ∈ nonIdleSteps m := mem_nonIdleSteps.mpr ⟨(two_le_terminal m).trans hs.le, hne⟩
    exact absurd (le_terminal_of_mem hmem) (Nat.not_le_of_lt hs)
  · obtain ⟨-, hne⟩ := mem_nonIdleSteps.mp (terminal_mem_of_ne_two h)
    exact hne

/-! ### One edit -/

/-- One row of a table of any dimensions after an edit: its word is set where the edit matches the combination
and names the opcode (R89). -/
theorem applyEdit_row (P : Profile) (E : ExpandedTable) (e : FlagEdit) (g o : Nat) :
    ((applyEdit P E e).getD g [])[o]? = ((E.getD g [])[o]?).map fun m =>
      if editHits e g && e.opcode == o then m.set e.step (P.word e.word) else m := by
  rw [List.getD_eq_getElem?_getD, List.getD_eq_getElem?_getD, applyEdit_getElem?]
  cases E[g]? with
  | none => rfl
  | some T =>
    by_cases hit : editHits e g = true
    · by_cases hop : e.opcode = o <;> simp [hit, hop]
    · simp [hit]

/-- A lookup goes through the row of its combination and opcode. -/
theorem lookup_eq_row (E : ExpandedTable) (f o s : Nat) :
    lookup E f o s = (((E.getD f [])[o]?).getD []).getD s 0 := by
  rw [lookup, List.getD_eq_getElem?_getD (l := E.getD f [])]

/-- An edit leaves every other opcode and step as it was, in every combination (R95). -/
theorem lookup_applyEdit_of_ne {P : Profile} {E : ExpandedTable} {e : FlagEdit} {g o s : Nat}
    (h : o ≠ e.opcode ∨ s ≠ e.step) : lookup (applyEdit P E e) g o s = lookup E g o s := by
  rw [lookup_eq_row, lookup_eq_row, applyEdit_row]
  cases (E.getD g [])[o]? with
  | none => rfl
  | some m =>
    rcases h with ho | hs
    · simp [ho.symm]
    · by_cases hit : (editHits e g && e.opcode == o) = true
      · simp [hit, List.getD, List.getElem?_set_ne hs.symm]
      · simp [hit]

/-- An edit puts its word where it says, in a combination it matches (R89). -/
theorem lookup_applyEdit_of_hit {P : Profile} {E : ExpandedTable} {e : FlagEdit} {g : Nat} {T : OpcodeTable}
    {m : Microprogram} (hit : editHits e g = true) (hT : E[g]? = some T) (hm : T[e.opcode]? = some m)
    (hs : e.step < m.length) : lookup (applyEdit P E e) g e.opcode e.step = P.word e.word := by
  have hrow : (E.getD g [])[e.opcode]? = some m := by simp [List.getD, hT, hm]
  rw [lookup_eq_row, applyEdit_row, hrow]
  simp [hit, List.getD, hs]

/-- Settles O19: the unmatched combination by `applyEdit_getElem?`, the two other clauses by the row. -/
theorem flagEditChangesOneWord : Obligations.FlagEditChangesOneWord := by
  refine fun P E e g => ⟨fun hmiss => ?_, fun hit T m hT hm hs => lookup_applyEdit_of_hit hit hT hm hs,
    fun o s h => lookup_applyEdit_of_ne h⟩
  rw [applyEdit_getElem?]
  simp [hmiss]

/-! ### All the edits -/

/-- The word of the last edit of the list that matches a place, or `w` where none does (R89). -/
def lastEditOr (P : Profile) (es : List FlagEdit) (f o s : Nat) (w : CtrlWord) : CtrlWord :=
  (((es.filter fun e => editHits e f && e.opcode == o && e.step == s).getLast?).map
    fun e => P.word e.word).getD w

/-- The first edit of the list is what the later ones fall back on (R89). -/
theorem lastEditOr_cons (P : Profile) (e : FlagEdit) (es : List FlagEdit) (f o s : Nat) (w : CtrlWord) :
    lastEditOr P (e :: es) f o s w = lastEditOr P es f o s
      (if editHits e f && e.opcode == o && e.step == s then P.word e.word else w) := by
  unfold lastEditOr
  rw [List.filter_cons]
  split
  · rw [List.getLast?_cons]
    cases (es.filter fun e => editHits e f && e.opcode == o && e.step == s).getLast? <;> rfl
  · rfl

/-- No edit of a valid profile is at a fetch word (R90). -/
theorem lastEditOr_of_lt_two {P : Profile} (hs : ShapeFacts P) {s : Nat} (h : s < 2) (f o : Nat)
    (w : CtrlWord) : lastEditOr P P.edits f o s w = w := by
  have hnone : (P.edits.filter fun e => editHits e f && e.opcode == o && e.step == s) = [] := by
    refine List.filter_eq_nil_iff.mpr fun e he => ?_
    have hlow := hs.edit_low e he
    simp [show e.step ≠ s by omega]
  rw [lastEditOr, hnone]
  rfl

/-- One word after a list of edits, in a table of the right dimensions (R89). -/
theorem lookup_foldl_applyEdit {P : Profile} (es : List FlagEdit) {E : ExpandedTable} (h : Shaped P E)
    {f o s : Nat} (hf : f < 2 ^ P.NF) (ho : o < 2 ^ P.NO) (hs : s < 2 ^ P.NS) :
    lookup (es.foldl (applyEdit P) E) f o s = lastEditOr P es f o s (lookup E f o s) := by
  induction es generalizing E with
  | nil => rfl
  | cons e es ih =>
    rw [List.foldl_cons, ih (applyEdit_shaped h e), lookup_applyEdit h e hf ho hs, lastEditOr_cons]

/-- The replicated base table of a valid profile has the right dimensions (R87). -/
theorem replicate_shaped_of_valid {P : Profile} (hv : Valid P) :
    Shaped P (replicateTable P (baseTable P)) := by
  obtain ⟨-, hp, hs⟩ := valid_parts hv
  obtain ⟨-, -, -, -, hsteps, -⟩ := partitionCheck_facts hp
  exact replicate_shaped (shapeCheck_facts hs) hsteps

/-- Settles O20, by induction on the list of edits. -/
theorem theLastMatchingEditWins : Obligations.TheLastMatchingEditWins := by
  intro P f o s hv hf ho hs
  rw [applyEdits, lookup_foldl_applyEdit P.edits (replicate_shaped_of_valid hv) hf ho hs,
    lookup_replicate P hf ho]
  rfl

/-! ### The clear-extend pass -/

/-- Settles O22: the clear-extend pass on the edited table, which has the right dimensions. -/
theorem clearExtendAtTheTerminalStepOnly : Obligations.ClearExtendAtTheTerminalStepOnly := by
  rintro P f o s hv hf ho hs E1 rfl
  exact lookup_applyClearExtend (applyEdits_shaped (replicate_shaped_of_valid hv)) hf ho hs

/-- The expander changes no fetch word: neither an edit nor the terminal step is there (R90, R91, R94). -/
theorem lookup_expand_of_lt_two {P : Profile} (hv : Valid P) {f o s : Nat} (hf : f < 2 ^ P.NF)
    (ho : o < 2 ^ P.NO) (h : s < 2) : lookup (expand P) f o s = (micro P o).getD s 0 := by
  obtain ⟨-, hp, hshape⟩ := valid_parts hv
  obtain ⟨-, -, -, -, hsteps, -⟩ := partitionCheck_facts hp
  have hfacts := shapeCheck_facts hshape
  have hs : s < 2 ^ P.NS := h.trans_le (hfacts.steps.trans hsteps)
  rw [clearExtendAtTheTerminalStepOnly P f o s hv hf ho hs _ rfl, if_neg,
    theLastMatchingEditWins P f o s hv hf ho hs]
  · exact lastEditOr_of_lt_two hfacts h f o _
  · rintro ⟨-, hterm⟩
    exact absurd (hterm ▸ two_le_terminal _) (Nat.not_le_of_lt h)

/-- Settles O18: steps 0 and 1 keep their words of the base table. -/
theorem commonFetchWords : Obligations.CommonFetchWords :=
  fun _ _ _ hv hf ho =>
    ⟨lookup_expand_of_lt_two hv hf ho Nat.two_pos, lookup_expand_of_lt_two hv hf ho Nat.one_lt_two⟩

/-! ### Flag independence -/

/-- Two combinations that have the same table before edits that match both or neither have the same table after
them (R96). -/
theorem foldl_applyEdit_getElem?_congr (P : Profile) {es : List FlagEdit} {E : ExpandedTable} {f g : Nat}
    (h : ∀ e ∈ es, editHits e f = editHits e g) (hE : E[f]? = E[g]?) :
    (es.foldl (applyEdit P) E)[f]? = (es.foldl (applyEdit P) E)[g]? := by
  induction es generalizing E with
  | nil => exact hE
  | cons e es ih =>
    obtain ⟨he, hes⟩ := List.forall_mem_cons.mp h
    exact ih hes (by rw [applyEdit_getElem?, applyEdit_getElem?, hE, he])

/-- Two combinations that the same edits match have the same expanded table (R96). -/
theorem expand_getElem?_congr {P : Profile} {f g : Nat} (hf : f < 2 ^ P.NF) (hg : g < 2 ^ P.NF)
    (h : ∀ e ∈ P.edits, editHits e f = editHits e g) : (expand P)[f]? = (expand P)[g]? := by
  have hbase : (replicateTable P (baseTable P))[f]? = (replicateTable P (baseTable P))[g]? := by
    simp [replicateTable, hf, hg]
  rw [expand, expandTable, applyClearExtend_getElem?, applyClearExtend_getElem?, applyEdits,
    foldl_applyEdit_getElem?_congr P h hbase]

/-- A list of edits leaves the rows of an opcode that none of them names as they were (R96). -/
theorem foldl_applyEdit_row_of_ne (P : Profile) {es : List FlagEdit} {o : Nat} (h : ∀ e ∈ es, e.opcode ≠ o)
    (E : ExpandedTable) (f : Nat) :
    ((es.foldl (applyEdit P) E).getD f [])[o]? = (E.getD f [])[o]? := by
  induction es generalizing E with
  | nil => rfl
  | cons e es ih =>
    obtain ⟨hop, hes⟩ := List.forall_mem_cons.mp h
    rw [List.foldl_cons, ih hes, applyEdit_row]
    simp [hop]

/-- One row of a table after the clear-extend pass, which is the same for every combination (R92). -/
theorem applyClearExtend_row (P : Profile) (E : ExpandedTable) (f o : Nat) :
    ((applyClearExtend P E).getD f [])[o]? = ((E.getD f [])[o]?).map fun m =>
      if isExt P o then clearExtendAt P m else m := by
  rw [List.getD_eq_getElem?_getD, List.getD_eq_getElem?_getD, applyClearExtend_getElem?]
  cases E[f]? with
  | none => rfl
  | some T => exact List.getElem?_mapIdx

/-- The row of an opcode that no edit names is made from the base table alone (R96). -/
theorem expand_row_of_unedited {P : Profile} {f o : Nat} (hf : f < 2 ^ P.NF) (he : Unedited P o) :
    ((expand P).getD f [])[o]? = ((baseTable P)[o]?).map fun m =>
      if isExt P o then clearExtendAt P m else m := by
  have hbase : (replicateTable P (baseTable P)).getD f [] = baseTable P := by
    simp [replicateTable, List.getD, hf]
  rw [expand, expandTable, applyClearExtend_row, applyEdits,
    foldl_applyEdit_row_of_ne P he, hbase]

/-- Flipping a flag bit that an edit's mask does not have changes nothing for the edit (R89, R96). -/
theorem editHits_flip {e : FlagEdit} {j : Nat} (h : e.mask.testBit j = false) (f : Nat) :
    editHits e (f ^^^ (1 <<< j)) = editHits e f := by
  have hout : 1 <<< j &&& e.mask = 0 := by
    rw [Nat.one_shiftLeft, Nat.two_pow_and, h]
    exact Nat.mul_zero _
  rw [editHits, editHits, Nat.and_xor_distrib_right, hout, Nat.xor_zero]

/-- Settles O23: a row that no edit names comes from the base table alone, and whole tables are equal where the
same edits match. -/
theorem flagIndependence : Obligations.FlagIndependence := by
  refine fun P f hf => ⟨fun hnone => ?_, fun o he => ?_, fun j hj hmask => ?_⟩
  · exact expand_getElem?_congr hf (Nat.two_pow_pos _) (by simp [hnone])
  · rw [expand_row_of_unedited hf he, expand_row_of_unedited (Nat.two_pow_pos _) he]
  · have hbit : 1 <<< j < 2 ^ P.NF := Nat.one_shiftLeft j ▸ Nat.pow_lt_pow_right Nat.one_lt_two hj
    exact expand_getElem?_congr hf (Nat.xor_lt_two_pow hf hbit) fun e he => (editHits_flip (hmask e he) f).symm

end Sys2Proof.Machine
end

section
/-! The statements about address decomposition (43_address_decomposition.md): what PartitionCheck passes,
Decompose as a bijection, the table behind every address, and fields over adjacent bits. -/

namespace Sys2Proof.Machine

/-! ### What PartitionCheck passes -/

/-- The converse of `partitionCheck_facts`: a profile with these facts passes (R99). -/
theorem partitionCheck_of_facts {P : Profile} (hlt : ∀ b ∈ positions P.partition, b < P.W)
    (hnodup : (positions P.partition).Nodup) (hall : ∀ b, b < P.W → b ∈ positions P.partition)
    (ho : P.nopcodesDecl ≤ 2 ^ P.NO) (hs : P.nstepsDecl ≤ 2 ^ P.NS) (hk : nslices P.Wc ≤ 2 ^ P.NB)
    (hf : P.NF = P.flagNames.length) : partitionCheck P = none := by
  have hrange : (positions P.partition).any (fun b => P.W ≤ b) = false := by simpa using hlt
  have hdrop : (List.range P.W).any (fun b => b ∉ positions P.partition) = false := by simpa using hall
  rw [partitionCheck, hrange, hdrop, if_neg Bool.false_ne_true, if_neg (not_not.mpr hnodup),
    if_neg Bool.false_ne_true, if_neg ho.not_gt, if_neg hs.not_gt, if_neg hk.not_gt, if_neg (not_not.mpr hf)]

/-- A list holds every number below `W` once and no other number exactly when it rearranges them. -/
theorem count_eq_ite_iff_perm_range {l : List Nat} {W : Nat} :
    (∀ b, l.count b = if b < W then 1 else 0) ↔ l.Perm (List.range W) := by
  simp only [List.perm_iff_count, List.nodup_range.count, List.mem_range]

/-- The positions of a partition that passes are the address bits, rearranged (R99). -/
theorem positions_perm_range {P : Profile} (h : partitionCheck P = none) :
    (positions P.partition).Perm (List.range P.W) := by
  obtain ⟨hlt, hnodup, hall, -⟩ := partitionCheck_facts h
  exact (List.perm_ext_iff_of_nodup hnodup List.nodup_range).mpr fun b =>
    ⟨fun hb => List.mem_range.mpr (hlt b hb), fun hb => hall b (List.mem_range.mp hb)⟩

/-- The positions of a partition are as many as the widths of its fields say (R6). -/
theorem length_positions (P : Profile) :
    (positions P.partition).length = P.NF + P.NO + P.NS + P.NB := by
  simp only [positions, List.length_append, Profile.NF, Profile.NO, Profile.NS, Profile.NB]

/-- Settles O8: the first three tests pass exactly when the positions rearrange the address bits, whose number
is then the sum of the widths. -/
theorem partitionCheckPassesExactlyOnPartitions : Obligations.PartitionCheckPassesExactlyOnPartitions := by
  refine fun P => ⟨⟨fun h => ?_, ?_⟩, fun h => ?_⟩
  · obtain ⟨-, -, -, hranges⟩ := partitionCheck_facts h
    exact ⟨count_eq_ite_iff_perm_range.mpr (positions_perm_range h), hranges⟩
  · rintro ⟨hcount, ho, hs, hk, hf⟩
    have hperm := count_eq_ite_iff_perm_range.mp hcount
    have hmem : ∀ b, b ∈ positions P.partition ↔ b < P.W := fun b => hperm.mem_iff.trans List.mem_range
    exact partitionCheck_of_facts (fun b => (hmem b).mp) (hperm.nodup_iff.mpr List.nodup_range)
      (fun b => (hmem b).mpr) ho hs hk hf
  · rw [← length_positions, (positions_perm_range h).length_eq, List.length_range]

/-! ### Decompose and Compose, and the table -/

/-- Settles O5: what Decompose reads fits and composes back, and fields that fit are read back. -/
theorem decomposeIsABijection : Obligations.DecomposeIsABijection := by
  refine fun P h => ⟨fun A hA => ?_, fun f o s k hf ho hs hk => ?_⟩
  · obtain ⟨hf, ho, hs, hk⟩ := decompose_fits P.partition A
    exact ⟨hf, ho, hs, hk, compose_decompose h hA⟩
  · exact ⟨compose_lt h _, decompose_compose h ⟨hf, ho, hs, hk⟩⟩

/-- Settles O6: the fields fit, and the expanded table has the dimensions they fit. -/
theorem everyAddressLandsInTheTable : Obligations.EveryAddressLandsInTheTable := by
  intro P A hv _
  obtain ⟨hf, ho, hs, hk⟩ := decompose_fits P.partition A
  obtain ⟨T, m, hT, hm, hlen⟩ := row_exists (expand_shaped hv) hf ho
  exact ⟨hf, ho, hs, hk, T, m, _, hT, hm, List.getElem?_eq_getElem (hlen ▸ hs)⟩

/-! ### Fields over adjacent bits -/

/-- The field over adjacent address bits is a shift and a mask (R105). -/
theorem field_range' (A lo n : Nat) : field A (List.range' lo n) = (A >>> lo) &&& (2 ^ n - 1) := by
  apply Nat.eq_of_testBit_eq
  intro j
  rw [testBit_field, Nat.testBit_and, Nat.testBit_shiftRight, Nat.testBit_two_pow_sub_one]
  by_cases hj : j < n <;> simp [hj]

/-- Decompose of REF (R50, R105). -/
theorem decompose_ref (A : Nat) : decompose refPartition A =
    ⟨(A >>> 9) &&& 0xF, (A >>> 4) &&& 0x1F, A &&& 0xF, (A >>> 13) &&& 0x3⟩ := by
  have hruns : decompose refPartition A = ⟨field A (List.range' 9 4), field A (List.range' 4 5),
      field A (List.range' 0 4), field A (List.range' 13 2)⟩ := rfl
  simp only [hruns, field_range']
  rfl

/-- Decompose of TOY, which has no slice field (R49, R105). -/
theorem decompose_toy (A : Nat) : decompose toyPartition A =
    ⟨(A >>> 3) &&& 1, (A >>> 2) &&& 1, A &&& 0x3, 0⟩ := by
  have hruns : decompose toyPartition A = ⟨field A (List.range' 3 1), field A (List.range' 2 1),
      field A (List.range' 0 2), 0⟩ := rfl
  simp only [hruns, field_range']
  rfl

/-- Settles O7: the fields of REF and TOY are runs of adjacent bits. -/
theorem contiguousFieldsAreShiftAndMask : Obligations.ContiguousFieldsAreShiftAndMask :=
  ⟨field_range', fun A => ⟨fun _ => decompose_ref A, fun _ => decompose_toy A⟩⟩

end Sys2Proof.Machine
end

section
/-! The statements about the byte serializer (44_byte_serializer.md): the slices in range, the bytes put
together again, and the place of a signal in its cell. -/

namespace Sys2Proof.Machine

/-! ### The slices in range -/

/-- A slice is out of range exactly when its first bit lies at or above the width (R108). -/
theorem nslices_le_iff {Wc k : Nat} : nslices Wc ≤ k ↔ Wc ≤ k * 8 := by
  unfold nslices
  omega

/-- Beyond the last slice a word that fits has no bits (R109). -/
theorem shiftRight_of_nslices_le {Wc : Nat} {w : CtrlWord} (hw : w < 2 ^ Wc) {k : Nat}
    (hk : nslices Wc ≤ k) : w >>> (k * 8) = 0 :=
  Nat.shiftRight_eq_zero _ _ (hw.trans_le (Nat.pow_le_pow_right (by decide) (nslices_le_iff.mp hk)))

/-- The byte of a slice of a word that fits, as a number (R107, R109). -/
theorem toNat_slice {Wc : Nat} {w : CtrlWord} (hw : w < 2 ^ Wc) (k : Nat) :
    (slice Wc w k).toNat = (w >>> (8 * k)) % 256 := by
  rw [slice_of_lt hw, BitVec.toNat_ofNat]

/-- Settles O14: the range test is arithmetic on the width, and the formula needs no range test. -/
theorem sliceClausesAgree : Obligations.SliceClausesAgree :=
  fun _ k _ => ⟨nslices_le_iff, fun hk => if_pos hk, fun hw => shiftRight_of_nslices_le hw,
    fun hw => Nat.mul_comm 8 k ▸ toNat_slice hw k⟩

/-! ### The bytes put together -/

/-- The first `n` slices of a word that fits, each at its place, are its low `8 * n` bits (R110). -/
theorem sum_slices {Wc : Nat} {w : CtrlWord} (hw : w < 2 ^ Wc) (n : Nat) :
    ((List.range n).map fun i => (slice Wc w i).toNat <<< (8 * i)).sum = w % 2 ^ (8 * n) := by
  induction n with
  | zero => simp [Nat.mod_one]
  | succ n ih =>
    have hbyte : (slice Wc w n).toNat <<< (8 * n) = 2 ^ (8 * n) * (w / 2 ^ (8 * n) % 2 ^ 8) := by
      rw [toNat_slice hw, Nat.shiftLeft_eq, Nat.shiftRight_eq_div_pow, Nat.mul_comm]
      rfl
    rw [List.range_succ, List.map_append, List.sum_append, ih, List.map_singleton, List.sum_singleton,
      hbyte, Nat.mul_succ, Nat.pow_add, Nat.mod_mul]

/-- Settles O13: the slices put together are the low bits, and enough slices cover the whole word. -/
theorem byteRoundTrip : Obligations.ByteRoundTrip := by
  intro Wc w n hw hn
  have hcover : Wc ≤ 8 * n := Nat.mul_comm 8 n ▸ nslices_le_iff.mp hn
  rw [sum_slices hw, Nat.mod_eq_of_lt (hw.trans_le (Nat.pow_le_pow_right (by decide) hcover))]

/-! ### The bit of a signal -/

/-- Bit `j` of slice `k` of a word that fits is bit `8 * k + j` of the word (R107). -/
theorem getLsbD_slice {Wc : Nat} {w : CtrlWord} (hw : w < 2 ^ Wc) (k : Nat) {j : Nat} (hj : j < 8) :
    (slice Wc w k).getLsbD j = w.testBit (8 * k + j) := by
  rw [slice_of_lt hw, BitVec.getLsbD_ofNat, Nat.testBit_shiftRight, decide_eq_true hj, Bool.true_and]

/-- A word of names fits the width when every catalog bit does (R64, R67). -/
theorem word_names_lt {P : Profile} (hnd : (P.signals.map fun e => e.1).Nodup)
    (hlt : ∀ e ∈ P.signals, e.2 < P.Wc) (ns : List String) : P.word (.names ns) < 2 ^ P.Wc := by
  refine Nat.lt_pow_two_of_testBit _ fun b hb => Bool.eq_false_iff.mpr fun hset => ?_
  obtain ⟨n, -, hn⟩ := (testBit_word_names_iff hnd ns b).mp hset
  exact absurd (hlt _ hn) (Nat.not_lt.mpr hb)

/-- A bit index is `8 * k + j` exactly when `k` and `j` are its slice and its place in the slice (R111). -/
theorem slice_place_iff {b k j : Nat} (hj : j < 8) : b = 8 * k + j ↔ k = b / 8 ∧ j = b % 8 := by
  omega

/-- Settles O15: the cell bit is bit `8 * k + j` of the word, which the names with that catalog bit set. -/
theorem signalsReachTheirOwnCellBit : Obligations.SignalsReachTheirOwnCellBit := by
  intro P ns k j hv _ hj
  obtain ⟨hc, -, hs⟩ := valid_parts hv
  obtain ⟨hlt, -⟩ := catalogCheck_eq_none_iff.mp hc
  have hnd := (shapeCheck_facts hs).names_nodup
  rw [getLsbD_slice (word_names_lt hnd hlt ns) k hj, testBit_word_names_iff hnd]
  simp only [← slice_place_iff hj, exists_eq_right]

end Sys2Proof.Machine
end

section
/-! The statements about the ROM image builder (45_rom_image_builder.md): the halves of a split image, what the
read port and the bank answer on the loaded ROM, and the build from its start to the read port. -/

namespace Sys2Proof.Machine

/-! ### The halves of a split image -/

/-- Settles O24: the halves are the image cut at its midpoint. -/
theorem splitHalvesConcatenate : Obligations.SplitHalvesConcatenate := by
  intro P image lo hi hv _ hl hcut
  obtain ⟨hlo, hhi⟩ := splitImage_length (width_pos hv) hl
  rw [hcut] at hlo hhi
  obtain ⟨rfl, rfl⟩ := Prod.mk.inj hcut
  exact ⟨List.take_append_drop .., hlo, hhi, fun i hlt => ⟨List.getElem?_take_of_lt hlt, List.getElem?_drop⟩⟩

/-- An element of an image is found in the half that the top address bit selects, at the other address bits
(R118, R120). -/
theorem getD_eq_getD_half {P : Profile} (hW : 0 < P.W) (image : List Byte) {A : Nat} (hA : A < 2 ^ P.W) :
    image.getD A 0 = if A.testBit (P.W - 1) then (splitImage P image).2.getD (A % splitPoint P) 0
      else (splitImage P image).1.getD (A % splitPoint P) 0 := by
  have h2 := two_halves hW
  simp only [testBit_top_iff hW hA, splitImage, List.getD_eq_getElem?_getD, List.getElem?_drop]
  by_cases htop : splitPoint P ≤ A
  · rw [if_pos htop, Nat.mod_eq_sub_mod htop, Nat.mod_eq_of_lt (by omega), Nat.add_sub_cancel' htop]
  · have hlow : A < splitPoint P := not_le.mp htop
    rw [if_neg htop, Nat.mod_eq_of_lt hlow, List.getElem?_take_of_lt hlow]

/-! ### The read port and the bank -/

/-- Element `A` of the finished image is the closed form (R114, R117). -/
theorem getD_build {P : Profile} {A : Nat} (hA : A < 2 ^ P.W) : (build P).getD A 0 = imageByte P A := by
  simp [build, List.getD, hA]

/-- On the loaded ROM of a valid profile the read port answers the closed form (R117, R120). -/
theorem readAt_of_loaded {P : Profile} {s : State} (hv : Valid P) (hl : Loaded P s) {A : Nat}
    (hA : A < 2 ^ P.W) : s.readAt A = .next (s.answered A (imageByte P A)) := by
  obtain ⟨rfl, hrom⟩ := hl
  rw [readAt_of_rom hrom hA, read_ofProfile hv hA]

/-- Settles O26: the closed form is the element of the image, which stands in the half that the top address bit
selects. -/
theorem readPortAnswersTheImage : Obligations.ReadPortAnswersTheImage := by
  intro P s A hv hl hA
  have hread : s.readAt A = .next (s.answered A ((build P).getD A 0)) := by
    rw [readAt_of_loaded hv hl hA, getD_build hA]
  exact ⟨hread, fun _ => hread.trans (by rw [getD_eq_getD_half (width_pos hv) (build P) hA, splitPoint])⟩

/-- The chip that is read at slice `k` delivers that slice of the word (R112, R121). -/
theorem read_ofProfile_compose {P : Profile} (hv : Valid P) {t : Fields} (ht : t.Fits P.partition) :
    (Rom.ofProfile P).read P (compose P.partition t) =
      slice P.Wc (lookup (expand P) t.flags t.opcode t.step) t.slice := by
  obtain ⟨-, hp, -⟩ := valid_parts hv
  rw [read_ofProfile hv (compose_lt hp t), imageByte, romByte, decompose_compose hp ht]

/-- Settles O27: the chips deliver the slices of the word, which put together are the word. -/
theorem bankDeliversTheControlWord : Obligations.BankDeliversTheControlWord := by
  intro P f o st hv hf ho hst
  obtain ⟨-, hp, -⟩ := valid_parts hv
  obtain ⟨-, -, -, -, -, hslices, -⟩ := partitionCheck_facts hp
  rw [← byteRoundTrip P.Wc _ (nslices P.Wc) (lookup_expand_lt hv hf ho st) le_rfl, Rom.bank]
  refine congrArg List.sum (List.map_congr_left fun k hk => ?_)
  have hfit : k < 2 ^ P.NB := (List.mem_range.mp hk).trans_le hslices
  rw [read_ofProfile_compose hv (t := ⟨f, o, st, k⟩) ⟨hf, ho, hst, hfit⟩]

/-- Settles O35: every step at the read port is a read of the address on the lines. -/
theorem stepReadsTheAddressOnTheLines : Obligations.StepReadsTheAddressOnTheLines := by
  intro s r hst hr hA
  rw [step_of_reading hst]
  exact readAt_of_rom hr hA

/-- Settles O37: the fields of the instruction are read back from its address, so the closed form there is the
slice of its word. -/
theorem everyInstructionAnswersItsExpandedWord : Obligations.EveryInstructionAnswersItsExpandedWord := by
  intro i s h hl
  rw [show s.profile = i.slot.named.profile from hl.1]
  exact exec_of_loaded h hl

/-! ### The build -/

/-- A run of the machine goes on from the state its first step answers. -/
theorem run_core_succ {s t : State} (h : step s = .next t) (k : Nat) :
    Host.Core.run core (k + 1) s = Host.Core.run core k t :=
  run_succ_of_next (M := core) h k

/-- A check that passes leads to the next stage and changes nothing else (R155). -/
theorem checked_none (s : State) (g : Stage) : s.checked none g = s.atStage g := rfl

theorem step_of_catalog_passed {s : State} (hst : s.stage = .checkCatalog)
    (h : catalogCheck s.profile = none) : step s = .next (s.atStage .checkPartition) := by
  rw [step_of_building (by simp [hst]) (by simp [hst]), buildStep_checkCatalog hst, h,
    Option.map_none, checked_none]

theorem step_of_partition_passed {s : State} (hst : s.stage = .checkPartition)
    (h : partitionCheck s.profile = none) : step s = .next (s.atStage .checkShape) := by
  rw [step_of_building (by simp [hst]) (by simp [hst]), buildStep_checkPartition hst, h,
    Option.map_none, checked_none]

theorem step_of_shape_passed {s : State} (hst : s.stage = .checkShape)
    (h : shapeCheck s.profile = none) : step s = .next (s.atStage .makeBase) := by
  rw [step_of_building (by simp [hst]) (by simp [hst]), buildStep_checkShape hst, h,
    Option.map_none, checked_none]

/-- The three checks of a valid profile take three steps (R146, R155). -/
theorem run_checks {P : Profile} (hv : Valid P) (k : Nat) :
    Host.Core.run core (k + 3) (State.start P) =
      Host.Core.run core k ((State.start P).atStage .makeBase) := by
  obtain ⟨hc, hp, hs⟩ := valid_parts hv
  rw [run_core_succ (step_of_catalog_passed rfl hc), run_core_succ (step_of_partition_passed rfl hp),
    run_core_succ (step_of_shape_passed rfl hs)]
  rfl

/-- A build of `P` in its address loop, with `a` bytes emitted (R113). -/
def loopState (P : Profile) (a : Nat) : State :=
  { State.start P with
    stage := .addressLoop, base := baseTable P, expanded := expand P, addr := a,
    image := (List.range a).map (imageByte P) }

/-- The two tables take two steps, and the loop begins with nothing emitted (R155). -/
theorem run_tables (P : Profile) (k : Nat) :
    Host.Core.run core (k + 2) ((State.start P).atStage .makeBase) =
      Host.Core.run core k (loopState P 0) := rfl

/-- A step in the address loop is an iteration or the end of the loop (R113, R155). -/
theorem step_loopState (P : Profile) (a : Nat) : step (loopState P a) = .next (loopState P a).loopStep :=
  rfl

/-- An iteration of the loop emits the byte of the closed form at its address (R113, R117). -/
theorem step_loopState_of_lt {P : Profile} {a : Nat} (ha : a < 2 ^ P.W) :
    step (loopState P a) = .next (loopState P (a + 1)) := by
  have himage : (List.range (a + 1)).map (imageByte P) =
      (List.range a).map (imageByte P) ++ [imageByte P a] := by
    rw [List.range_succ, List.map_append, List.map_singleton]
  rw [step_loopState, loopStep_of_lt ha, loopState, loopState, himage]
  rfl

/-- The loop ends with the canonical ROM, its byte of address 0 on the output, and nothing else of the build
left but `addr` (R30, R155, R156). -/
theorem step_loopState_end {P : Profile} (hv : Valid P) :
    step (loopState P (2 ^ P.W)) = .next { State.start P with
      stage := .reading
      addr := 2 ^ P.W
      rom := some (Rom.ofProfile P)
      dataOut := some (imageByte P 0) } := by
  have hout : dataAt P (some (Rom.ofProfile P)) 0 = some (imageByte P 0) := by
    rw [dataAt_of_lt _ (Nat.two_pow_pos _), read_ofProfile hv (Nat.two_pow_pos _)]
  rw [step_loopState, loopStep_of_ge le_rfl, ← hout, ← program_build hv]
  rfl

/-- `n` iterations of the loop emit `n` bytes (R113). -/
theorem run_loopState {P : Profile} (k : Nat) {n a : Nat} (h : a + n ≤ 2 ^ P.W) :
    Host.Core.run core (k + n) (loopState P a) = Host.Core.run core k (loopState P (a + n)) := by
  induction n generalizing a with
  | zero => rfl
  | succ n ih =>
    rw [← Nat.add_assoc, run_core_succ (step_loopState_of_lt (by omega)), ih (by omega),
      Nat.add_right_comm, Nat.add_assoc]

/-- Settles O28: three checks, two tables, one step for each address, and the end of the loop. -/
theorem buildEndsWithTheRom : Obligations.BuildEndsWithTheRom := by
  intro P hv
  rw [show 2 ^ P.W + 6 = 1 + 2 ^ P.W + 2 + 3 by omega, run_checks hv, run_tables,
    run_loopState 1 (by omega), Nat.zero_add, run_core_succ (step_loopState_end hv)]
  rfl

end Sys2Proof.Machine
end

section
/-! The statements about the named profiles (46_profiles.md): the conditional jumps, whose one edit is at
step 2, the expanded table of REF, and the images of TOY, MINI and REF17. -/

namespace Sys2Proof.Machine

/-! ### Conditional jumps -/

/-- An edit whose mask and value are one flag bit matches the combinations that have it (R89). -/
theorem editHits_of_flag {e : FlagEdit} {j : Nat} (hmask : e.mask = 2 ^ j) (hvalue : e.value = 2 ^ j)
    (f : Nat) : editHits e f = f.testBit j := by
  rw [editHits, hmask, hvalue, Nat.and_two_pow]
  cases f.testBit j <;> simp [(Nat.two_pow_pos j).ne]

/-- Where one edit names an opcode, its row is the base row with the word of that edit, in the combinations
that the edit matches (R89). -/
theorem editedSlot_of_one_edit {P : Profile} {o : Nat} {e : FlagEdit}
    (h : (P.edits.filter fun e => e.opcode == o) = [e]) (f : Nat) : editedSlot P f o =
      if editHits e f then (micro P o).set e.step (P.word e.word) else micro P o := by
  have hfilter : editedSlot P f o = (P.edits.filter fun e => e.opcode == o).foldl
      (fun m e => if editHits e f then m.set e.step (P.word e.word) else m) (micro P o) := by
    rw [editedSlot, List.foldl_filter]
    congr
    funext m e
    cases editHits e f <;> cases e.opcode == o <;> rfl
  rw [hfilter, h]
  rfl

/-- A word of a list of three: the last one, or a word of the first two. -/
theorem getD_three (a b c : CtrlWord) (s : Nat) :
    [a, b, c].getD s 0 = if s = 2 then c else [a, b].getD s 0 :=
  match s with
  | 0 | 1 | 2 | _ + 3 => rfl

/-- Where no step after step 2 has a word, the terminal step is step 2 (R91). -/
theorem terminal_eq_two {m : Microprogram} (h : ∀ s, 2 < s → m.getD s 0 = 0) : terminal m = 2 := by
  by_contra hne
  obtain ⟨htwo, hword⟩ := mem_nonIdleSteps.mp (terminal_mem_of_ne_two hne)
  exact hword (h _ (lt_of_le_of_ne htwo (Ne.symm hne)))

/-- Opcode `o` has no body and one edit, which puts the word of a taken jump at step 2 where flag bit `j` is
set, in a profile with a step after the fetch (R85). -/
abbrev JumpsOnFlag (P : Profile) (o j : Nat) : Prop :=
  2 < 2 ^ P.NS ∧ bodyAt P o = [] ∧
    (P.edits.filter fun e => e.opcode == o) = [⟨2 ^ j, 2 ^ j, o, 2, wordJumpTaken⟩]

/-- The base row of an opcode without a body, in a profile with a step after the fetch. -/
theorem micro_of_no_body {P : Profile} {o : Nat} (hNS : 2 < 2 ^ P.NS) (h : bodyAt P o = []) :
    ∃ n, micro P o = [P.word P.fetch0, P.word P.fetch1, 0] ++ List.replicate n 0 := by
  obtain ⟨n, hn⟩ := Nat.exists_eq_add_of_le hNS
  refine ⟨n, ?_⟩
  rw [micro_eq, h, hn, show 2 + 1 + n - 2 - ([] : List CtrlWord).length = n + 1 by simp; omega]
  rfl

/-- The edited row of a conditional jump: the fetch words, and the word of a taken jump where the flag is set
(R85, R89). -/
theorem editedSlot_of_jumpsOnFlag {P : Profile} {o j : Nat} (h : JumpsOnFlag P o j) (f : Nat) :
    ∃ n, editedSlot P f o = [P.word P.fetch0, P.word P.fetch1,
      if f.testBit j then P.word wordJumpTaken else 0] ++ List.replicate n 0 := by
  obtain ⟨hNS, hbody, hedit⟩ := h
  obtain ⟨n, hn⟩ := micro_of_no_body hNS hbody
  refine ⟨n, ?_⟩
  rw [editedSlot_of_one_edit hedit, editHits_of_flag rfl rfl, hn]
  cases f.testBit j <;> rfl

/-- What clear-extend adds to the terminal step of opcode `o` (R92). -/
def clearExtendOf (P : Profile) (o : Nat) : CtrlWord := if isExt P o then clearExtendWord P else 0

/-- A row that has one word after the fetch has the clear-extend word of its opcode beside it (R92). -/
theorem expandedSlot_of_editedSlot {P : Profile} {f o n : Nat} {a b c : CtrlWord}
    (h : editedSlot P f o = [a, b, c] ++ List.replicate n 0) :
    expandedSlot P f o = [a, b, c ||| clearExtendOf P o] ++ List.replicate n 0 := by
  unfold expandedSlot clearExtendOf
  rw [h]
  by_cases hx : isExt P o = true
  · have hterm : terminal ([a, b, c] ++ List.replicate n 0) = 2 := by
      refine terminal_eq_two fun s hs => ?_
      rw [getD_append_idle]
      exact List.getD_eq_default _ _ hs
    rw [if_pos hx, if_pos hx, clearExtendAt, hterm]
    rfl
  · rw [if_neg hx, if_neg hx, Nat.or_zero]

/-- Every word of a conditional jump in the expanded table (R85, R93). -/
theorem lookup_of_jumpsOnFlag {P : Profile} {f o j : Nat} (hf : f < 2 ^ P.NF) (ho : o < 2 ^ P.NO)
    (h : JumpsOnFlag P o j) (s : Nat) : lookup (expand P) f o s = [P.word P.fetch0, P.word P.fetch1,
      (if f.testBit j then P.word wordJumpTaken else 0) ||| clearExtendOf P o].getD s 0 := by
  obtain ⟨n, hn⟩ := editedSlot_of_jumpsOnFlag h f
  rw [lookup_expand P hf ho, expandedSlot_of_editedSlot hn, getD_append_idle]

/-- Opcode `o` jumps on flag bit `j` after the fetch words of the named profiles; with the clear-extend word of
the opcode, step 2 is `taken` where the flag is set and `clear` where it is not. -/
abbrev JumpWords (P : Profile) (o j : Nat) (taken clear : CtrlWord) : Prop :=
  JumpsOnFlag P o j ∧ P.word P.fetch0 = 0x00003 ∧ P.word P.fetch1 = 0x0001C ∧
    P.word wordJumpTaken ||| clearExtendOf P o = taken ∧ clearExtendOf P o = clear

/-- Every word of an opcode of jump words, in numbers. -/
theorem lookup_of_jumpWords {P : Profile} {f o j : Nat} {taken clear : CtrlWord} (hf : f < 2 ^ P.NF)
    (ho : o < 2 ^ P.NO) (h : JumpWords P o j taken clear) (s : Nat) : lookup (expand P) f o s =
      [0x00003, 0x0001C, if f.testBit j then taken else clear].getD s 0 := by
  obtain ⟨hjump, hfetch0, hfetch1, rfl, rfl⟩ := h
  rw [lookup_of_jumpsOnFlag hf ho hjump, hfetch0, hfetch1]
  cases f.testBit j with
  | true => rfl
  | false => rw [if_neg Bool.false_ne_true, if_neg Bool.false_ne_true, Nat.zero_or]

/-- What an opcode of jump words answers: of the flags only bit `j` matters. -/
theorem exec_of_jumpWords {i : Instr} {s : State} {n : NamedProfile} {f o st k j : Nat}
    {taken clear : CtrlWord} (hslot : i.slot = ⟨n, ⟨f, o, st, k⟩⟩) (h : i.wf = true)
    (hl : Loaded n.profile s) (hj : JumpWords n.profile o j taken clear) :
    exec i s = .next (s.answered (encode i)
      (byteAt [0x00003, 0x0001C, if f.testBit j then taken else clear] st k)) :=
  exec_of_words hslot h hl fun hf ho => lookup_of_jumpWords hf ho hj st

/-- Settles O51: JZ and JC jump on flag bits 1 and 0 and are outside the extended page. -/
theorem conditionalJumpWords : Obligations.ConditionalJumpWords := by
  intro c hc s f st k hf hst hk hl
  have hok := refFieldsOk_of_lt hf hst hk
  fin_cases hc <;> exact exec_of_jumpWords rfl hok hl (by decide)

/-- Settles O52: XJN and XJV jump on flag bits 2 and 3 and are of the extended page. -/
theorem extendedConditionalJumpWords : Obligations.ExtendedConditionalJumpWords := by
  intro c hc s f st k hf hst hk hl
  have hok := refFieldsOk_of_lt hf hst hk
  fin_cases hc <;> exact exec_of_jumpWords rfl hok hl (by decide)

/-- A step beyond the listed words is idle, so an idle word at their end changes no byte (R54). -/
theorem byteAt_append_idle (ws : List CtrlWord) (n st k : Nat) :
    byteAt (ws ++ List.replicate n 0) st k = byteAt ws st k := by
  rw [byteAt, getD_append_idle]

/-- XJZ of MINI jumps on flag bit 1 and is of the extended page (R132). -/
theorem jumpWords_miniXjz : JumpWords miniProfile 1 1 0x460 0x400 := by decide

/-- Settles O56: XJZ has jump words, and the last word listed is idle. -/
theorem miniConditionalJumpWords : Obligations.MiniConditionalJumpWords := by
  intro s f st k hf hst hk hl
  have hok : miniFieldsOk f st k = true := by simp [miniFieldsOk, hf, hst, hk]
  have hxjz := exec_of_jumpWords (i := .miniXjz f st k) (n := .mini) rfl hok hl jumpWords_miniXjz
  rw [← byteAt_append_idle _ 1] at hxjz
  exact hxjz

/-! ### TOY -/

/-- Settles O55: LOAD and HALT are opcodes of plain words, and the last word listed of HALT is idle. -/
theorem toyOpcodeWords : Obligations.ToyOpcodeWords := by
  intro s f st hf hst hl
  have hok : toyFieldsOk f st = true := by simp [toyFieldsOk, hf, hst]
  have hhalt := exec_of_plainWords (i := .toyHalt f st) (n := .toy) (ws := [0x11, 0xE0, 0x08]) rfl hok hl
    (by decide)
  refine ⟨exec_of_plainWords (n := .toy) rfl hok hl (by decide), hhalt.trans ?_⟩
  rw [← byteAt_append_idle [0x11, 0xE0, 0x08] 1]
  rfl

/-- Settles O43, by building the image. -/
theorem toyImage : Obligations.ToyImage := by
  unfold Obligations.ToyImage
  decide

/-! ### The image of MINI -/

/-- The byte of the closed form at an address of a valid profile, from the word there (R112, R117). -/
theorem imageByte_eq {P : Profile} (hv : Valid P) (A : Nat) : imageByte P A = BitVec.ofNat 8
    (lookup (expand P) (field A P.partition.flags) (field A P.partition.opcode)
      (field A P.partition.step) >>> (8 * field A P.partition.slice)) :=
  slice_of_lt (lookup_expand_lt hv (field_lt ..) (field_lt ..) _) _

/-- The field of one address bit. -/
theorem field_singleton (A b : Nat) : field A [b] = (A.testBit b).toNat := by
  simp [field, bitAt]

/-- LDA of MINI has plain words (R77, R132). -/
theorem plainWords_miniLda : PlainWords miniProfile 0 [0x003, 0x01C, 0x022, 0x084] := by decide

/-- The byte at an address of MINI: the opcode, the step and the slice by address bits (R52, R112). -/
theorem imageByte_mini (A : Nat) : imageByte miniProfile A = BitVec.ofNat 8
    (lookup (expand miniProfile) (field A miniPartition.flags) (A.testBit 6).toNat ((A >>> 3) % 4) >>>
      (8 * ((A >>> 2) % 2))) := by
  have hopcode : field A miniPartition.opcode = (A.testBit 6).toNat := field_singleton A 6
  have hstep : field A miniPartition.step = (A >>> 3) % 4 :=
    (field_range' A 3 2).trans (Nat.and_two_pow_sub_one_eq_mod _ 2)
  have hslice : field A miniPartition.slice = (A >>> 2) % 2 :=
    (field_range' A 2 1).trans (Nat.and_two_pow_sub_one_eq_mod _ 1)
  rw [← hopcode, ← hstep, ← hslice]
  exact imageByte_eq (valid_profile .mini) A

/-- Settles O44: address bit 6 is the opcode, LDA or XJZ, and address bit 7 the flag that XJZ tests. -/
theorem miniImage : Obligations.MiniImage := by
  intro A _
  have hflags : field A miniPartition.flags < 2 ^ miniProfile.NF := field_lt ..
  have hzero : (field A miniPartition.flags).testBit 1 = A.testBit 7 := testBit_field ..
  rw [imageByte_mini]
  cases A.testBit 6 with
  | false =>
    obtain ⟨he, hx, hwords⟩ := plainWords_miniLda
    rw [Bool.toNat_false, lookup_of_unedited hflags (by decide) he hx, hwords]
    rfl
  | true =>
    rw [Bool.toNat_true, lookup_of_jumpWords hflags (by decide) jumpWords_miniXjz, hzero]
    exact (byteAt_append_idle [0x003, 0x01C, if A.testBit 7 then 0x460 else 0x400] 1 _ _).symm

/-! ### The expanded table of REF -/

/-- A word of the base table is a word of the opcode's microprogram (R86). -/
theorem getD_baseTable {P : Profile} {o : Nat} (ho : o < 2 ^ P.NO) :
    (baseTable P).getD o [] = micro P o := by
  simp [baseTable, List.getD, ho]

/-- The base words of an opcode without a body are the fetch words (R70). -/
theorem getD_micro_of_no_body {P : Profile} {o : Nat} (h : bodyAt P o = []) (s : Nat) :
    (micro P o).getD s 0 = [P.word P.fetch0, P.word P.fetch1].getD s 0 := by
  rw [getD_micro, h]

/-- A conditional jump differs from its base row at step 2 only (R85, R128). -/
theorem lookup_of_jumpWords_base {P : Profile} {f o j : Nat} {taken clear : CtrlWord} (hf : f < 2 ^ P.NF)
    (ho : o < 2 ^ P.NO) (h : JumpWords P o j taken clear) (s : Nat) : lookup (expand P) f o s =
      if s = 2 then (if f.testBit j then taken else clear) else ((baseTable P).getD o []).getD s 0 := by
  rw [lookup_of_jumpWords hf ho h, getD_three, getD_baseTable ho]
  obtain ⟨⟨-, hbody, -⟩, hfetch0, hfetch1, -⟩ := h
  rw [getD_micro_of_no_body hbody, hfetch0, hfetch1]

/-- Where step 2 is idle with the flag clear, the jump differs from its base row only with the flag set. -/
theorem lookup_of_idle_jumpWords_base {P : Profile} {f o j : Nat} {taken : CtrlWord} (hf : f < 2 ^ P.NF)
    (ho : o < 2 ^ P.NO) (h : JumpWords P o j taken 0) (s : Nat) : lookup (expand P) f o s =
      if s = 2 ∧ f.testBit j = true then taken else ((baseTable P).getD o []).getD s 0 := by
  rw [lookup_of_jumpWords_base hf ho h, getD_baseTable ho]
  obtain ⟨⟨-, hbody, -⟩, -⟩ := h
  by_cases hs : s = 2
  · have hidle : (micro P o).getD 2 0 = 0 := getD_micro_of_no_body hbody 2
    simp only [hs, hidle, if_true, true_and]
  · simp only [hs, if_false, false_and]

/-- An undefined slot of the extended page differs from its base row at step 2 only (R84, R92). -/
theorem lookup_of_clearExtendOnly_base {P : Profile} {f o : Nat} {a b c : CtrlWord} (hf : f < 2 ^ P.NF)
    (ho : o < 2 ^ P.NO) (h : ClearExtendOnly P o [a, b, c]) (s : Nat) : lookup (expand P) f o s =
      if s = 2 then c else ((baseTable P).getD o []).getD s 0 := by
  obtain ⟨hNS, he, hundef, hx, hwords⟩ := h
  have hbody : bodyAt P o = [] := by simp [bodyAt, hundef]
  simp only [List.cons.injEq, and_true] at hwords
  obtain ⟨rfl, rfl, rfl⟩ := hwords
  rw [lookup_of_undefined_extended hf ho hNS he hundef hx, getD_three, getD_baseTable ho,
    getD_micro_of_no_body hbody]

/-- An opcode outside the extended page that no edit names has its base row (R93, R96). -/
theorem lookup_of_unedited_base {P : Profile} {f o : Nat} (hf : f < 2 ^ P.NF) (ho : o < 2 ^ P.NO)
    (he : Unedited P o) (hx : isExt P o = false) (s : Nat) :
    lookup (expand P) f o s = ((baseTable P).getD o []).getD s 0 := by
  rw [lookup_of_unedited hf ho he hx, getD_baseTable ho, getD_micro]

/-- The opcodes of REF by what the expander makes of them: the four conditional jumps, the undefined slots of
the extended page, and the others below 16 (R127 to R129). -/
theorem ref_opcode_kinds : ∀ o < 32, o = 6 ∨ o = 7 ∨ o = 17 ∨ o = 18 ∨
    (16 ≤ o ∧ o ≠ 17 ∧ o ≠ 18 ∧ ClearExtendOnly refProfile o [0x00003, 0x0001C, 0x20000]) ∨
    (o < 16 ∧ o ≠ 6 ∧ o ≠ 7 ∧ Unedited refProfile o ∧ isExt refProfile o = false) := by
  decide

/-- Settles O45, kind by kind: a conditional jump and an undefined slot of the extended page differ from their
base rows at step 2, the other opcodes nowhere. -/
theorem refExpandedTable : Obligations.RefExpandedTable := by
  refine ⟨by decide, fun f o s hf ho _ => ?_⟩
  have hf : f < 2 ^ refProfile.NF := hf
  have ho : o < 2 ^ refProfile.NO := ho
  rcases ref_opcode_kinds o ho with rfl | rfl | rfl | rfl | ⟨hlow, hn, hv, hx⟩ | ⟨hlow, hz, hc, he, hx⟩
  · have hjz : JumpWords refProfile 6 1 0x60 0 := by decide
    simp [lookup_of_idle_jumpWords_base hf ho hjz]
  · have hjc : JumpWords refProfile 7 0 0x60 0 := by decide
    simp [lookup_of_idle_jumpWords_base hf ho hjc]
  · have hxjn : JumpWords refProfile 17 2 0x20060 0x20000 := by decide
    rw [lookup_of_jumpWords_base hf ho hxjn]
    by_cases hs : s = 2 <;> simp [hs]
  · have hxjv : JumpWords refProfile 18 3 0x20060 0x20000 := by decide
    rw [lookup_of_jumpWords_base hf ho hxjv]
    by_cases hs : s = 2 <;> simp [hs]
  · have hz : o ≠ 6 ∧ o ≠ 7 := by omega
    simp [lookup_of_clearExtendOnly_base hf ho hx, hlow, hn, hv, hz]
  · have hext : o ≠ 17 ∧ o ≠ 18 ∧ ¬ 16 ≤ o := by omega
    simp [lookup_of_unedited_base hf ho he hx, hz, hc, hext]

/-! ### The image of REF17 -/

/-- Where the two profiles have the same opcode, their words are the same: everything the expander reads is
REF's (R130). -/
theorem lookup_ref17_eq_ref {f o : Nat} (hf : f < 16) (ho : o < 32) (s : Nat) :
    lookup (expand ref17Profile) f o s = lookup (expand refProfile) f o s := by
  have hslot : expandedSlot ref17Profile f o = expandedSlot refProfile f o := rfl
  have ho17 : o < 2 ^ ref17Profile.NO := ho.trans (by decide)
  rw [lookup_expand ref17Profile hf ho17, lookup_expand refProfile hf ho, hslot]

/-- The opcode field of REF17 is REF's with address bits 15 and 16 above it (R51). -/
theorem field_ref17_opcode (A : Nat) : field A ref17Partition.opcode =
    field A refPartition.opcode + 32 * ((A >>> 15) % 4) := by
  have happ : ref17Partition.opcode = refPartition.opcode ++ List.range' 15 2 := rfl
  rw [happ, field_append, field_range', Nat.and_two_pow_sub_one_eq_mod _ 2]
  rfl

/-- The byte at an address of REF17: REF's fields, and address bits 15 and 16 above the opcode (R51, R112). -/
theorem imageByte_ref17 (A : Nat) : imageByte ref17Profile A = BitVec.ofNat 8
    (lookup (expand ref17Profile) (field A refPartition.flags)
      (field A refPartition.opcode + 32 * ((A >>> 15) % 4)) (field A refPartition.step) >>>
      (8 * field A refPartition.slice)) := by
  rw [← field_ref17_opcode]
  exact imageByte_eq (valid_profile .ref17) A

/-- The words of a fetch-only opcode are in their lowest byte (R71, R72). -/
theorem fetchOnly_lt_byte (st : Nat) : [0x00003, 0x0001C].getD st 0 < 2 ^ 8 :=
  match st with
  | 0 => (by decide : 0x00003 < 2 ^ 8)
  | 1 => (by decide : 0x0001C < 2 ^ 8)
  | _ + 2 => Nat.two_pow_pos 8

/-- The bytes of a fetch-only opcode: the fetch words in slice 0 of steps 0 and 1, and zeros elsewhere
(R130). -/
theorem byteAt_fetchOnly (st k : Nat) : byteAt [0x00003, 0x0001C] st k =
    if k = 0 ∧ st = 0 then 0x03 else if k = 0 ∧ st = 1 then 0x1C else 0 := by
  cases k with
  | zero =>
    match st with
    | 0 | 1 | _ + 2 => rfl
  | succ k =>
    have hhigh : [0x00003, 0x0001C].getD st 0 >>> (8 * (k + 1)) = 0 :=
      Nat.shiftRight_eq_zero _ _
        ((fetchOnly_lt_byte st).trans_le (Nat.pow_le_pow_right (by decide) (by omega)))
    rw [byteAt, hhigh]
    simp

/-- Settles O46: below `0x8000` both profiles read the same word at the same slice, and above it REF17 reads an
opcode of 32 or more, which is fetch only. -/
theorem ref17ExtendsRef : Obligations.Ref17ExtendsRef := by
  have hflags : ∀ A, field A refPartition.flags < 16 := fun A => field_lt A refPartition.flags
  have hopcode : ∀ A, field A refPartition.opcode < 32 := fun A => field_lt A refPartition.opcode
  refine ⟨fun A hA => ?_, fun A hlow hhigh => ?_⟩
  · have hzero : (A >>> 15) % 4 = 0 := by omega
    rw [imageByte_ref17, hzero, Nat.mul_zero, Nat.add_zero, lookup_ref17_eq_ref (hflags A) (hopcode A)]
    exact (imageByte_eq (valid_profile .ref) A).symm
  · have hstep : field A refPartition.step = A % 16 :=
      (field_range' A 0 4).trans (Nat.and_two_pow_sub_one_eq_mod _ 4)
    have hslice : field A refPartition.slice = (A >>> 13) % 4 :=
      (field_range' A 13 2).trans (Nat.and_two_pow_sub_one_eq_mod _ 2)
    have hlt := hopcode A
    rw [imageByte_ref17, lookup_ref17_leftover (hflags A) (by omega) (by omega), hstep, hslice]
    exact byteAt_fetchOnly (A % 16) ((A >>> 13) % 4)

end Sys2Proof.Machine
end

section
/-! The statements about the exceptions (60_exceptions.md): the conditions of ShapeCheck and the first that
holds, the check that ends a build, and what can stop the machine. -/

namespace Sys2Proof.Machine

/-! ### The conditions of ShapeCheck -/

/-- A word has an unknown name exactly when it is written with a name that is in no entry of the catalog
(R65, R142). -/
theorem hasUnknownName_iff {P : Profile} {w : WordSpec} :
    hasUnknownName P w = true ↔ ∃ ns, w = .names ns ∧ ∃ n ∈ ns, ∀ b, (n, b) ∉ P.signals := by
  cases w with
  | value v => simp [hasUnknownName]
  | names ns => simp [hasUnknownName, sig?_eq_none_iff]

/-- A value is changed by a mask exactly when it has a bit the mask has not (R89, R142). -/
theorem and_ne_self_iff {v m : Nat} :
    v &&& m ≠ v ↔ ∃ b, v.testBit b = true ∧ m.testBit b = false := by
  rw [Ne, Nat.eq_iff_testBit_eq, not_forall]
  simp only [Nat.testBit_and, Bool.and_eq_left_iff_imp, Classical.not_imp, Bool.not_eq_true]

theorem badMask_iff {P : Profile} {e : FlagEdit} : badMask P e = true ↔
    2 ^ P.NF ≤ e.mask ∨ ∃ b, e.value.testBit b = true ∧ e.mask.testBit b = false := by
  rw [badMask, Bool.or_eq_true, decide_eq_true_iff, bne_iff_ne, and_ne_self_iff]

/-- A slot is extended by its own mark or by the list of extended slots (R92, R142). -/
theorem hasExtended_iff {P : Profile} :
    hasExtended P = true ↔ (∃ e ∈ P.ops, e.2.ext = true) ∨ P.extSlots ≠ [] := by
  simp [hasExtended]

/-- The split is refused for another point than the midpoint, and, where one is asked for, for a ROM without
an address bit (R118, R142). -/
theorem badSplit_iff {P : Profile} : badSplit P = true ↔
    (∃ n, P.split = .point n ∧ n ≠ 2 ^ (P.W - 1)) ∨ (P.split ≠ .no ∧ P.W = 0) := by
  unfold badSplit
  cases P.split with
  | no => simp
  | midpoint => simp
  | point n => simp [splitPoint, or_comm]

/-- The Boolean of each row of R142's table decides the condition of the row. -/
theorem shapeFails_iff {P : Profile} {r : ShapeReason} :
    shapeFails P r = true ↔ ShapeCondition P r := by
  cases r with
  | duplicateName | flagNames => simp [shapeFails, ShapeCondition]
  | unknownSignal =>
    simp only [shapeFails, ShapeCondition, List.any_eq_true, hasUnknownName_iff]
    exact ⟨fun ⟨_, hw, ns, hns, hn⟩ => ⟨ns, hns ▸ hw, hn⟩, fun ⟨ns, hw, hn⟩ => ⟨_, hw, ns, rfl, hn⟩⟩
  | wordTooWide | bodyTooLong | editInFetch | editStepOutOfRange =>
    simp only [shapeFails, ShapeCondition, List.any_eq_true, decide_eq_true_iff]
  | opcodeOutOfRange =>
    simp only [shapeFails, ShapeCondition, Bool.or_eq_true, List.any_eq_true, decide_eq_true_iff, or_assoc]
  | editMask => simp only [shapeFails, ShapeCondition, List.any_eq_true, badMask_iff]
  | missingXc =>
    rw [shapeFails, Bool.and_eq_true, hasExtended_iff, Option.isNone_iff_eq_none, ShapeCondition]
  | stepsDecl => exact decide_eq_true_iff
  | splitPoint => exact badSplit_iff

/-- Of a listed element, `find?` says that it is the one found exactly when it passes and nothing before it
does. -/
theorem find?_eq_some_iff_takeWhile {α : Type} [BEq α] [LawfulBEq α] {p : α → Bool} {l : List α} {a : α}
    (ha : a ∈ l) :
    l.find? p = some a ↔ p a = true ∧ ∀ b ∈ l.takeWhile (· != a), ¬ p b = true := by
  induction l with
  | nil => cases ha
  | cons x l ih =>
    by_cases hx : x = a
    · subst hx
      have hbefore : (x :: l).takeWhile (· != x) = [] := by simp
      have hfound : (x :: l).find? p = some x → p x = true := List.find?_some
      rw [hbefore]
      exact ⟨fun h => ⟨hfound h, by simp⟩, fun h => List.find?_cons_of_pos h.1⟩
    · have hmem : a ∈ l := List.mem_of_ne_of_mem (Ne.symm hx) ha
      have hbefore : (x :: l).takeWhile (· != a) = x :: l.takeWhile (· != a) := by simp [hx]
      rw [hbefore, List.forall_mem_cons]
      cases hp : p x with
      | true => simp [hp, hx]
      | false => simp [hp, ih hmem]

/-- Every reason has a row in R142's table. -/
theorem mem_shapeReasons (r : ShapeReason) : r ∈ shapeReasons := by
  cases r <;> decide

/-- Settles O57: the check searches the rows of the table in order, and each row's Boolean decides its
condition. -/
theorem shapeCheckGivesTheFirstCondition : Obligations.ShapeCheckGivesTheFirstCondition := by
  intro P
  constructor
  · simp only [shapeCheck_none_iff, ← shapeFails_iff, Bool.not_eq_true]
  · intro r
    simp only [← shapeFails_iff]
    exact find?_eq_some_iff_takeWhile (mem_shapeReasons r)

/-! ### The check that ends a build -/

/-- A check that fails raises its error (R141, R155). -/
theorem checked_some (s : State) (e : BuildError) (g : Stage) : s.checked (some e) g = s.raise e := rfl

section Failed
variable {s : State}

theorem step_of_catalog_failed {r : CatalogReason} (hst : s.stage = .checkCatalog)
    (h : catalogCheck s.profile = some r) : step s = .next (s.raise (.signalCollisionError r)) := by
  rw [step_of_building (by simp [hst]) (by simp [hst]), buildStep_checkCatalog hst, h,
    Option.map_some, checked_some]

theorem step_of_partition_failed {r : PartitionReason} (hst : s.stage = .checkPartition)
    (h : partitionCheck s.profile = some r) : step s = .next (s.raise (.addressPartitionError r)) := by
  rw [step_of_building (by simp [hst]) (by simp [hst]), buildStep_checkPartition hst, h,
    Option.map_some, checked_some]

theorem step_of_shape_failed {r : ShapeReason} (hst : s.stage = .checkShape)
    (h : shapeCheck s.profile = some r) : step s = .next (s.raise (.profileRefused r)) := by
  rw [step_of_building (by simp [hst]) (by simp [hst]), buildStep_checkShape hst, h,
    Option.map_some, checked_some]

end Failed

/-- Settles O29: each check before the one that fails takes a step and changes only the stage, and so does the
one that raises. -/
theorem firstFailingCheckEndsTheBuild : Obligations.FirstFailingCheckEndsTheBuild := by
  rintro P e (⟨r, hc, rfl⟩ | ⟨r, hc, hp, rfl⟩ | ⟨r, hc, hp, hs, rfl⟩)
  · refine ⟨1, by decide, ?_, step_of_failed rfl⟩
    rw [run_core_succ (step_of_catalog_failed rfl hc)]
    rfl
  · refine ⟨2, by decide, ?_, step_of_failed rfl⟩
    rw [run_core_succ (step_of_catalog_passed rfl hc), run_core_succ (step_of_partition_failed rfl hp)]
    rfl
  · refine ⟨3, by decide, ?_, step_of_failed rfl⟩
    rw [run_core_succ (step_of_catalog_passed rfl hc), run_core_succ (step_of_partition_passed rfl hp),
      run_core_succ (step_of_shape_failed rfl hs)]
    rfl

/-! ### What stops the machine -/

/-- Everything a step is: a read of the address on the lines at the read port, the error of a failed build,
or a step of Run (R120, R141, R155). -/
theorem step_cases (s : State) :
    (s.stage = .reading ∧ step s = s.readAt s.addressLines) ∨
    (∃ e, s.stage = .failed e ∧ step s = .fault (.buildError e)) ∨
    step s = .next s.buildStep := by
  by_cases hread : s.stage = .reading
  · exact .inl ⟨hread, step_of_reading hread⟩
  by_cases hfail : ∃ e, s.stage = .failed e
  · obtain ⟨e, he⟩ := hfail
    exact .inr (.inl ⟨e, he, step_of_failed he⟩)
  · exact .inr (.inr (step_of_building hread (not_exists.mp hfail)))

/-- Settles O41: a read at the port changes nothing, and a step of Run always has a next state. -/
theorem onlyAFailedBuildStops : Obligations.OnlyAFailedBuildStops := by
  intro s hinv hok
  rcases step_cases s with ⟨hst, -⟩ | ⟨e, hst, -⟩ | hnext
  · exact ⟨s, step_reading_self hinv hst⟩
  · exact absurd hst (hok e)
  · exact ⟨_, hnext⟩

/-- Settles O42: a step is a read, a fault or a step of Run, an instruction is a read, and no read is
refused. -/
theorem nothingIsRefused : Obligations.NothingIsRefused := by
  intro s r
  constructor
  · rcases step_cases s with ⟨-, h⟩ | ⟨e, -, h⟩ | h
    · rw [h]
      exact readAt_not_refused s _ r
    · simp [h]
    · simp [h]
  · intro i
    rw [exec_eq_readAt]
    exact readAt_not_refused s _ r

end Sys2Proof.Machine
end

section
/-! The statement about reset (70_reset_and_hazards.md): the start of a build, for every profile and for TOY. -/

namespace Sys2Proof.Machine

/-! ### The start of a build -/

/-- A build starts with no table, no byte emitted and no ROM (R30, R154). -/
theorem nothingBuilt_start (P : Profile) : NothingBuilt (State.start P) :=
  ⟨start_base P, start_expanded P, start_addr P, start_image P, start_rom P⟩

/-- At the start the lines carry 0, which fits any number of them, and there is no output since there is no
ROM (R30, R44). -/
theorem portOk_start (P : Profile) : (State.start P).PortOk := by
  constructor
  · rw [start_addressLines]
    exact Nat.two_pow_pos _
  · rw [start_dataOut, start_rom, dataAt_none]

/-- The start of every build meets the invariant: no check is behind it (R154). -/
theorem inv_start (P : Profile) : (State.start P).Inv :=
  (inv_checkCatalog (start_stage P)).mpr ⟨portOk_start P, nothingBuilt_start P⟩

/-- Settles O31: what holds of the start of every build holds of the reset state, the start of a build of
TOY. -/
theorem resetIsTheStartOfABuild : Obligations.ResetIsTheStartOfABuild :=
  ⟨inv_start, inv_start toyProfile, nothingBuilt_start toyProfile, start_stage toyProfile,
    start_profile toyProfile⟩

end Sys2Proof.Machine
end
